-- ==== Sys2Proof/Word.lean ====
section
/-! DEFINITION. The types of values that cross SLENC's ports: bytes, words, lines, frame records (30_encoding.md R48) and the inputs of one clock cycle (10_state.md R24, 42_queue.md R92, 60_exceptions.md R104). -/

namespace Sys2Proof

/-- An 8-bit byte (R7). -/
abbrev Byte := BitVec 8

/-- A 32-bit value: an identifier as received (`ID_W`, R5) or a millisecond value (`TS_W`, R5). -/
abbrev Word := BitVec 32

/-- A byte sequence, first byte sent first (R8, R36). -/
abbrev Line := List Byte

/-- A frame record `f` (R48), with the widths of R5. Every value of every field is accepted (R58). -/
structure Frame where
  /-- `identifier`, as received, before masking. -/
  id : Word
  /-- `is_extended`. -/
  ext : Bool
  /-- `is_remote_request`. -/
  rtr : Bool
  /-- `data_length`, as received, before masking. -/
  dlc : Byte
  /-- `data[0..7]` in payload order (R38). -/
  data : Vector Byte 8
  deriving DecidableEq, Repr, Inhabited

/-- The inputs of one clock cycle: one row of a cycle script (R61). `clk` is the step itself. -/
structure CycleInputs where
  /-- Synchronous reset, active high (R24, R114). -/
  rst : Bool
  /-- PROD's offer: `some f` is `enq_valid = 1` with `enq_frame = f`, `none` is `enq_valid = 0` (R92, R108). -/
  enq : Option Frame
  /-- SINK takes the offered line at this edge (R24). -/
  wrReady : Bool
  /-- Milliseconds since the reference instant `P_TS_REF` (R24). -/
  nowMs : Word
  /-- Requests the timestamp field for a frame accepted in this cycle (R24). -/
  cfgTsEn : Bool
  /-- Requests the trailing line feed for a frame accepted in this cycle (R24). -/
  cfgLfEn : Bool
  /-- Open-interface mode only (R104): `some f` is `deq_valid = 1` with `deq_frame = f`. Not read when Q is modelled. -/
  deqOffer : Option Frame
  deriving DecidableEq, Repr, Inhabited

end Sys2Proof
end

