-- ==== Sys2Proof/Config.lean ====
section
/-! DEFINITION. The implementation parameters of 00_scope.md R5, and the free values: constants with no body, so that nothing can be proved about what they are. -/

namespace Sys2Proof.Config

/-- `QDEPTH`, the capacity of Q in frames (R5, R6, R90). -/
def qdepth : Nat := 20

/-- `STD_ID_MASK` (R5, R69). -/
def stdIdMask : Word := 0x7FF

/-- `EXT_ID_MASK` (R5, R70, conflict C1). -/
def extIdMask : Word := 0x1FFFFFFF

/-- `DLC_MASK` (R5, R71). -/
def dlcMask : Byte := 0xF

/-- `DATA_MAX`, most data bytes ever rendered (R5, R71, conflict C2). -/
def dataMax : Nat := 8

/-- `TS_MOD`, the modulus applied to the millisecond value (R5, R72). -/
def tsMod : Nat := 60000

/-- `LINE_MAX`, most bytes in one line (R5, R62). -/
def lineMax : Nat := 32

/-- `LINE_MIN`, fewest bytes in one line (R5, R62). -/
def lineMin : Nat := 6

/-- `P_TS_REF` (R5, U5), OPEN: the instant `now_ms` counts from. A free value; no rule computes with it. -/
opaque pTsRef : Nat

/-- FREE VALUE (log 2): the inputs of a cycle for which the script holds no row, by cycle number. R32 leaves every input free. -/
opaque freeInputs : Nat → CycleInputs

/-- FREE VALUE (log 3): what the frame wires carry while their `valid` is 0, by cycle number (R33, R91, U9). -/
opaque freeFrame : Nat → Frame

/-- FREE VALUE (log 24): the frame, time and options that stand in `h` where the spec gives it no value and a reset cycle shows it to ENC, by cycle number (R29, R114, R115). -/
opaque freeHeld : Nat → Frame × Word × Bool × Bool

end Sys2Proof.Config
end

