-- ==== Sys2Proof/Syntax.lean ====
section
/-! DEFINITION. The instructions: one constructor per row of spec/opcode_table.json. A `Bool` argument is a bit the row's pattern leaves open (`x` in R63): it is part of the selector word, and the row's rule says the step ignores it (log 5). -/

namespace Sys2Proof

/-- The sixteen rows of the opcode table: four frame shapes (R53), five relay steps and seven queue steps (R63). -/
inductive Instr where
  /-- `ENC_t`, standard data frame, `sel = 0b00` (R65). -/
  | encStdData
  /-- `ENC_r`, standard remote frame, `sel = 0b01` (R66). -/
  | encStdRemote
  /-- `ENC_T`, extended data frame, `sel = 0b10` (R67). -/
  | encExtData
  /-- `ENC_R`, extended remote frame, `sel = 0b11` (R68). -/
  | encExtRemote
  /-- `RLY_RESET`, `rsel = 1xxx` (R81). -/
  | rlyReset (st deqValid wrReady : Bool)
  /-- `RLY_WAIT`, `rsel = 000x` (R82). -/
  | rlyWait (wrReady : Bool)
  /-- `RLY_ACCEPT`, `rsel = 001x` (R84). -/
  | rlyAccept (wrReady : Bool)
  /-- `RLY_STALL`, `rsel = 01x0` (R85). -/
  | rlyStall (deqValid : Bool)
  /-- `RLY_EMIT`, `rsel = 01x1` (R86). -/
  | rlyEmit (deqValid : Bool)
  /-- `Q_RESET`, `qsel = 1xxx` (R93). -/
  | qReset (push pop full : Bool)
  /-- `Q_HOLD`, `qsel = 000x` (R94). -/
  | qHold (full : Bool)
  /-- `Q_POP`, `qsel = 001x` (R95). -/
  | qPop (full : Bool)
  /-- `Q_PUSH`, `qsel = 0100` (R96). -/
  | qPush
  /-- `Q_DROP`, `qsel = 0101` (R97). -/
  | qDrop
  /-- `Q_PUSH_POP`, `qsel = 0110` (R98). -/
  | qPushPop
  /-- `Q_DROP_POP`, `qsel = 0111` (R99). -/
  | qDropPop
  deriving DecidableEq, Repr

end Sys2Proof
end

