-- ==== Sys2Proof/WellFormed.lean ====
section
/-! DEFINITION. Well-formedness: of frames (00_scope.md R11), of the demo generator's frames (60_exceptions.md R112) and of instructions (30_encoding.md R59). -/

namespace Sys2Proof

/-- `WF(f)` (R11): `dlc <= 8`, and the identifier lies inside its declared space. SLENC itself never tests it (R58, R108). -/
def Frame.wf (f : Frame) : Bool :=
  decide (f.dlc.toNat ≤ 8) &&
    (if f.ext then decide (f.id.toNat < 2 ^ 29) else decide (f.id.toNat < 2 ^ 11))

/-- A frame the demo generator may offer (R112): drawn from the stated ranges, payload bytes unconstrained. -/
def Frame.isDemo (f : Frame) : Bool :=
  decide (f.id.toNat ≤ 0x7FF) && decide (f.dlc.toNat ≤ 8) && !f.ext && !f.rtr

/-- Which of the three selector tables of the spec a word belongs to, with its width in bits (R53, R63). -/
def Instr.selectorWidth : Instr → Nat
  | .encStdData | .encStdRemote | .encExtData | .encExtRemote => 2
  | .rlyReset _ _ _ | .rlyWait _ | .rlyAccept _ | .rlyStall _ | .rlyEmit _ => 4
  | .qReset _ _ _ | .qHold _ | .qPop _ | .qPush | .qDrop | .qPushPop | .qDropPop => 4

/-- Every instruction is well-formed: "No selector value is reserved or illegal" (R59), and every operand is one free bit of a selector. -/
def Instr.wf (_ : Instr) : Bool := true

end Sys2Proof
end

