-- ==== Sys2Proof/Decode.lean ====
section
/-! DEFINITION. Decoding the three selector vectors (30_encoding.md R53, R63), the encoder of instructions, the opcode table's rows, the host's reading of a table word, and the packed frame bus (R49). -/

namespace Sys2Proof

/-- A selector vector as the hardware presents it: `sel` (R53), `rsel` or `qsel` (R63). -/
inductive Selector where
  /-- `sel = ext : rtr`. -/
  | sel (v : BitVec 2)
  /-- `rsel = rst : st : deq_valid : wr_ready`. -/
  | rsel (v : BitVec 4)
  /-- `qsel = rst : push : pop : full`. -/
  | qsel (v : BitVec 4)
  deriving DecidableEq, Repr

/-- Which selector table a word is read by. -/
inductive SelectorTable where
  | frameShape | relayStep | queueStep
  deriving DecidableEq, Repr

/-- Why a number is no selector word of a table. No word that fits is refused (R59). -/
inductive DecodeError where
  /-- The number has a bit set above the table's selector. -/
  | bitAboveSelector
  deriving DecidableEq, Repr

/-- The frame shape `sel` picks (R53). -/
def decodeSel (v : BitVec 2) : Instr :=
  match v[1], v[0] with
  | false, false => .encStdData
  | false, true => .encStdRemote
  | true, false => .encExtData
  | true, true => .encExtRemote

/-- The relay step `rsel` picks (R63, first table). -/
def decodeRsel (v : BitVec 4) : Instr :=
  match v[3], v[2], v[1], v[0] with
  | true, st, deqValid, wrReady => .rlyReset st deqValid wrReady
  | false, false, false, wrReady => .rlyWait wrReady
  | false, false, true, wrReady => .rlyAccept wrReady
  | false, true, deqValid, false => .rlyStall deqValid
  | false, true, deqValid, true => .rlyEmit deqValid

/-- The queue step `qsel` picks (R63, second table). -/
def decodeQsel (v : BitVec 4) : Instr :=
  match v[3], v[2], v[1], v[0] with
  | true, push, pop, full => .qReset push pop full
  | false, false, false, full => .qHold full
  | false, false, true, full => .qPop full
  | false, true, false, false => .qPush
  | false, true, false, true => .qDrop
  | false, true, true, false => .qPushPop
  | false, true, true, true => .qDropPop

/-- The instruction a selector vector picks: total, since "every value of the selector picks exactly one step" (R59). -/
def decode : Selector → Instr
  | .sel v => decodeSel v
  | .rsel v => decodeRsel v
  | .qsel v => decodeQsel v

/-- Reads a number as a selector word of one table, refusing by name a number wider than the selector. -/
def decodeWord (t : SelectorTable) (w : Nat) : Except DecodeError Instr :=
  match t with
  | .frameShape => if w < 4 then .ok (decodeSel (BitVec.ofNat 2 w)) else .error .bitAboveSelector
  | .relayStep => if w < 16 then .ok (decodeRsel (BitVec.ofNat 4 w)) else .error .bitAboveSelector
  | .queueStep => if w < 16 then .ok (decodeQsel (BitVec.ofNat 4 w)) else .error .bitAboveSelector

/-- Four bits as a selector vector, the first one bit 3 (R63). -/
def bits4 (b3 b2 b1 b0 : Bool) : BitVec 4 :=
  BitVec.ofBool b3 ++ BitVec.ofBool b2 ++ BitVec.ofBool b1 ++ BitVec.ofBool b0

/-- Two bits as a selector vector, the first one bit 1 (R53). -/
def bits2 (b1 b0 : Bool) : BitVec 2 := BitVec.ofBool b1 ++ BitVec.ofBool b0

/-- The selector vector of an instruction, from the patterns of R53 and R63, its operands in the pattern's open bits. -/
def encode : Instr → Selector
  | .encStdData => .sel 0b00
  | .encStdRemote => .sel 0b01
  | .encExtData => .sel 0b10
  | .encExtRemote => .sel 0b11
  | .rlyReset st deqValid wrReady => .rsel (bits4 true st deqValid wrReady)
  | .rlyWait wrReady => .rsel (bits4 false false false wrReady)
  | .rlyAccept wrReady => .rsel (bits4 false false true wrReady)
  | .rlyStall deqValid => .rsel (bits4 false true deqValid false)
  | .rlyEmit deqValid => .rsel (bits4 false true deqValid true)
  | .qReset push pop full => .qsel (bits4 true push pop full)
  | .qHold full => .qsel (bits4 false false false full)
  | .qPop full => .qsel (bits4 false false true full)
  | .qPush => .qsel 0b0100
  | .qDrop => .qsel 0b0101
  | .qPushPop => .qsel 0b0110
  | .qDropPop => .qsel 0b0111

/-- A row of opcode_table.json: a selector value `v` is the row's when `v &&& mask = pattern`. -/
structure TableRow where
  table : SelectorTable
  pattern : Nat
  mask : Nat
  deriving DecidableEq, Repr

/-- The table, `match` and `mask` of an instruction's row in opcode_table.json (R53, R63). -/
def Instr.tableRow : Instr → TableRow
  | .encStdData => ⟨.frameShape, 0b00, 0b11⟩
  | .encStdRemote => ⟨.frameShape, 0b01, 0b11⟩
  | .encExtData => ⟨.frameShape, 0b10, 0b11⟩
  | .encExtRemote => ⟨.frameShape, 0b11, 0b11⟩
  | .rlyReset _ _ _ => ⟨.relayStep, 0b1000, 0b1000⟩
  | .rlyWait _ => ⟨.relayStep, 0b0000, 0b1110⟩
  | .rlyAccept _ => ⟨.relayStep, 0b0010, 0b1110⟩
  | .rlyStall _ => ⟨.relayStep, 0b0100, 0b1101⟩
  | .rlyEmit _ => ⟨.relayStep, 0b0101, 0b1101⟩
  | .qReset _ _ _ => ⟨.queueStep, 0b1000, 0b1000⟩
  | .qHold _ => ⟨.queueStep, 0b0000, 0b1110⟩
  | .qPop _ => ⟨.queueStep, 0b0010, 0b1110⟩
  | .qPush => ⟨.queueStep, 0b0100, 0b1111⟩
  | .qDrop => ⟨.queueStep, 0b0101, 0b1111⟩
  | .qPushPop => ⟨.queueStep, 0b0110, 0b1111⟩
  | .qDropPop => ⟨.queueStep, 0b0111, 0b1111⟩

/-- One instruction per row of the opcode table, in the table's order, open bits 0. -/
def tableInstrs : List Instr :=
  [.encStdData, .encStdRemote, .encExtData, .encExtRemote] ++
  [.rlyReset false false false, .rlyWait false, .rlyAccept false, .rlyStall false, .rlyEmit false] ++
  [.qReset false false false, .qHold false, .qPop false, .qPush, .qDrop, .qPushPop, .qDropPop]

/-- The rows of one selector table (R53, R63). -/
def tableRows (t : SelectorTable) : List TableRow :=
  (tableInstrs.map Instr.tableRow).filter (fun r => decide (r.table = t))

/-- Whether a selector value is a row's (`x` bits free). -/
def TableRow.hits (r : TableRow) (v : Nat) : Bool := decide (v &&& r.mask = r.pattern)

/-- The value of a selector vector as a number, bit 0 least significant (R7). -/
def Selector.value : Selector → Nat
  | .sel v => v.toNat
  | .rsel v => v.toNat
  | .qsel v => v.toNat

/-- The table a selector vector belongs to. -/
def Selector.table : Selector → SelectorTable
  | .sel _ => .frameShape
  | .rsel _ => .relayStep
  | .qsel _ => .queueStep

/-- The instruction the host's table word stands for (log 6). The three tables number their selectors from the same
numbers, and the host's question names no table: the word goes to the FIRST row of opcode_table.json whose `match` it is,
and a word that is no row's `match` is read as `rsel`. -/
def decodeTableWord (nbits w : Nat) : Option Instr :=
  if 2 ^ nbits ≤ w then none
  else
    match tableInstrs.find? (fun i => decide (i.tableRow.pattern = w)) with
    | some i => (decodeWord i.tableRow.table w).toOption
    | none => (decodeWord .relayStep w).toOption

/-- `data[j]` of a packed frame bus, bits `[42+8j+7 : 42+8j]` (R49). -/
def packedByte (b : BitVec 106) (j : Nat) : Byte := b.extractLsb' (42 + 8 * j) 8

/-- The frame a packed 106-bit `deq_frame` bus carries (R49). -/
def Frame.unpack (b : BitVec 106) : Frame where
  id := b.extractLsb' 0 32
  ext := b.getLsbD 32
  rtr := b.getLsbD 33
  dlc := b.extractLsb' 34 8
  data := #v[packedByte b 0, packedByte b 1, packedByte b 2, packedByte b 3,
             packedByte b 4, packedByte b 5, packedByte b 6, packedByte b 7]

/-- A field at bits `lo` and up of the bus. -/
def placed {w : Nat} (v : BitVec w) (lo : Nat) : BitVec 106 := v.setWidth 106 <<< lo

/-- The packed 106-bit bus of a frame (R49). -/
def Frame.pack (f : Frame) : BitVec 106 :=
  placed f.id 0 ||| placed (BitVec.ofBool f.ext) 32 ||| placed (BitVec.ofBool f.rtr) 33 ||| placed f.dlc 34 |||
    placed f.data[0] 42 ||| placed f.data[1] 50 ||| placed f.data[2] 58 ||| placed f.data[3] 66 |||
    placed f.data[4] 74 ||| placed f.data[5] 82 ||| placed f.data[6] 90 ||| placed f.data[7] 98

end Sys2Proof
end

