-- ==== Sys2Proof/Machine/State.lean ====
section
/-! DEFINITION. The state of the closed system (10_state.md R15) with the model's own bookkeeping, its reset value (R31), and the reasons a step can stop. -/

namespace Sys2Proof.Machine

/-- RLY's state register `st` (R16): `IDLE` = 0, `HOLD` = 1. -/
inductive RelaySt where
  | idle
  | hold
  deriving DecidableEq, Repr

/-- `st` as the bit of `rsel` (R16, R63). -/
def RelaySt.bit : RelaySt → Bool
  | .idle => false
  | .hold => true

/-- The holding register's record (R17): the frame's fields as received, and what ACCEPT samples with it. -/
structure Hold extends Frame where
  /-- `now_ms` sampled at the dequeue handshake. -/
  ts : Word
  /-- `cfg_ts_en` sampled at the dequeue handshake. -/
  tsEn : Bool
  /-- `cfg_lf_en` sampled at the dequeue handshake. -/
  lfEn : Bool
  deriving DecidableEq, Repr, Inhabited

/-- SLENC's output pins in one cycle (R25). -/
structure Outputs where
  /-- `deq_ready` (R26). -/
  deqReady : Bool
  /-- `wr_valid` (R27). -/
  wrValid : Bool
  /-- `wr_len`, 6 bits (R28, R29). -/
  wrLen : BitVec 6
  /-- `wr_data[0..31]` (R28, R29). -/
  wrData : Vector Byte 32
  deriving DecidableEq, Repr

/-- Every pin 0. -/
def Outputs.zero : Outputs := ⟨false, false, 0, Vector.replicate 32 0⟩

/-- Whether Q is part of the system, or left out as an unknown environment (R104). -/
inductive QSide where
  /-- Q of 42_queue.md is modelled. -/
  | closed
  /-- Open-interface mode. `owed = some f`: the offer of `f` met no handshake in the cycle before, so `f` must stay offered (duty (a) of R104). -/
  | opened (owed : Option Frame)
  deriving DecidableEq, Repr

/-- The state at the start of a clock cycle. `st`, `h` and `q` are the spec's complete state (R15); the other fields are the
model's own (INVENTORY.md, '## State'). -/
structure State where
  /-- RLY's state register (R16). -/
  st : RelaySt
  /-- RLY's holding register, or no value (R17, R18). -/
  h : Option Hold
  /-- Q's frames, oldest first (R90). -/
  q : List Frame
  /-- The output pins of the cycle run last (R25; log 7). -/
  out : Outputs
  /-- The lines SINK has taken, oldest first (R13; log 8). -/
  lines : List Line
  /-- The frames Q has dropped, oldest first (R13; log 8). -/
  dropped : List Frame
  /-- The inputs of this cycle and the next ones, in order (R61; log 1). -/
  script : List CycleInputs
  /-- The number of this cycle (R9; log 2). -/
  cycle : Nat
  /-- Closed system or open-interface mode (R104; log 9). -/
  qside : QSide
  deriving DecidableEq, Repr

/-- The faults the spec names. -/
inductive Fault where
  /-- `UNWRITTEN_HOLD` (R18, U11): `h` was read while it holds no value, in a cycle without reset. Raised by the four ENC rows (log 16). Safe: no reachable state raises it. -/
  | unwrittenHold
  /-- `ENV_PROTOCOL(cycle)` (R104, U12): in open-interface mode an owed offer was withdrawn or changed. Raised by the step at the start of a cycle. Safe: the run stops and is never resumed ("the fault is never cleared"). -/
  | envProtocol (cycle : Nat)
  deriving DecidableEq, Repr

/-- The refusals. No meaning of this model uses one. -/
inductive Refusal where
  /-- Raised by an arm of `exec` whose instruction has no meaning yet; there is none. Safe. -/
  | notModelled (mnemonic : String)
  deriving DecidableEq, Repr

/-- The state right after reset (R31): `st = IDLE`, `h` without a value, `q` empty. The model's own fields start empty (logs 1, 2, 7, 8, 9). -/
def State.reset : State where
  st := .idle
  h := none
  q := []
  out := Outputs.zero
  lines := []
  dropped := []
  script := []
  cycle := 0
  qside := .closed

end Sys2Proof.Machine
end

