-- ==== Sys2Proof/Machine/Flags.lean ====
section
/-! DEFINITION. The single-bit values and wires of a cycle: this cycle's inputs, the dequeue and write handshake signals, Q's `push`/`pop`/`full`, and the three selector vectors (10_state.md R22 to R27, 30_encoding.md R53 and R63, 42_queue.md R91 and R92). All are read before the edge. -/

namespace Sys2Proof.Machine

/-- The inputs of this cycle: the script's first row, or free inputs when the script is empty (R32, R61; logs 1 and 2). -/
def State.inp (s : State) : CycleInputs :=
  match s.script with
  | c :: _ => c
  | [] => Config.freeInputs s.cycle

/-- The inputs of the cycle `k` cycles from now. -/
def State.inputAt (s : State) (k : Nat) : CycleInputs :=
  match s.script[k]? with
  | some c => c
  | none => Config.freeInputs (s.cycle + k)

/-- `deq_valid = (|q| > 0)` when Q is modelled (R91); an input in open-interface mode (R104). -/
def State.deqValid (s : State) : Bool :=
  match s.qside with
  | .closed => !s.q.isEmpty
  | .opened _ => s.inp.deqOffer.isSome

/-- `deq_frame`: `QHead() = q[0]` when Q is modelled (R91), the environment's offer in open-interface mode (R104). Without an offer it carries no value: a free frame (R33; log 3). -/
def State.deqFrame (s : State) : Frame :=
  match s.qside with
  | .closed => s.q.head?.getD (Config.freeFrame s.cycle)
  | .opened _ => s.inp.deqOffer.getD (Config.freeFrame s.cycle)

/-- `enq_frame`. Without an offer it carries no value: a free frame (log 3). -/
def State.enqFrame (s : State) : Frame := s.inp.enq.getD (Config.freeFrame s.cycle)

/-- `deq_ready = (st = IDLE) AND (rst = 0)` (R26). -/
def State.deqReady (s : State) : Bool := decide (s.st = .idle) && !s.inp.rst

/-- `wr_valid = (st = HOLD) AND (rst = 0)` (R27). -/
def State.wrValid (s : State) : Bool := decide (s.st = .hold) && !s.inp.rst

/-- `push = enq_valid` (R63, R92). -/
def State.push (s : State) : Bool := s.inp.enq.isSome

/-- `pop = deq_valid AND deq_ready` (R63, R83, R92). -/
def State.pop (s : State) : Bool := s.deqValid && s.deqReady

/-- `full = (|q| = QDEPTH)` (R63, R92). -/
def State.full (s : State) : Bool := decide (s.q.length = Config.qdepth)

/-- A record about which nothing is known: free values (log 24). -/
def State.unknownRecord (s : State) : Hold :=
  match Config.freeHeld s.cycle with
  | (f, ts, tsEn, lfEn) => { toFrame := f, ts := ts, tsEn := tsEn, lfEn := lfEn }

/-- What a read of `h` gives. With no value there it gives none, which is the fault of R18; but a cycle with `rst = 1` ends with RESET whatever `h` may hold (R114, R115), so in it the read gives an unknown record (logs 16 and 24). -/
def State.readHeld (s : State) : Option Hold :=
  match s.h with
  | some h => some h
  | none => if s.inp.rst then some s.unknownRecord else none

/-- `sel = ext : rtr` of the held record (R53). -/
def Hold.sel (h : Hold) : BitVec 2 := bits2 h.ext h.rtr

/-- `rsel = rst : st : deq_valid : wr_ready` (R63). -/
def State.rsel (s : State) : BitVec 4 := bits4 s.inp.rst s.st.bit s.deqValid s.inp.wrReady

/-- `qsel = rst : push : pop : full` (R63). -/
def State.qsel (s : State) : BitVec 4 := bits4 s.inp.rst s.push s.pop s.full

end Sys2Proof.Machine
end

