-- ==== Sys2Proof/Machine/Operands.lean ====
section
/-! DEFINITION. Operand assembly (30_encoding.md sections 2 to 4): hexadecimal digits and the seven fields of a line, each from the frame fields it reads (R54). -/

namespace Sys2Proof.Machine

/-- `nib_k(v) = v[4k+3:4k]`, counting nibbles from 0 at the least significant end (R7). -/
def nib (k v : Nat) : BitVec 4 := BitVec.ofNat 4 (v >>> (4 * k))

/-- `hexd(n)`, one uppercase hex digit (R50, formula form). -/
def hexd (n : BitVec 4) : Byte :=
  if n.toNat ≤ 9 then 0x30 + n.setWidth 8 else 0x41 + (n.setWidth 8 - 10)

/-- `hexN(v, k)`, `k` digits, most significant nibble first (R51, R37). -/
def hexN (v : Nat) : Nat → Line
  | 0 => []
  | k + 1 => hexd (nib k v) :: hexN v k

/-- The TYPE byte of a shape (R53): `[0x74, 0x72, 0x54, 0x52][ext:rtr]`. -/
def typeByte (ext rtr : Bool) : Byte :=
  match ext, rtr with
  | false, false => 0x74
  | false, true => 0x72
  | true, false => 0x54
  | true, true => 0x52

/-- `W`, the number of ID digits (R52). -/
def idDigits (ext : Bool) : Nat := if ext then 8 else 3

/-- The ID field of a standard frame (R69). -/
def stdIdField (id : Word) : Line := hexN (id &&& Config.stdIdMask).toNat 3

/-- The ID field of an extended frame (R70, conflict C1). -/
def extIdField (id : Word) : Line := hexN (id &&& Config.extIdMask).toNat 8

/-- `d = dlc & 0xF` (R71). -/
def dlcNibble (dlc : Byte) : Nat := (dlc &&& Config.dlcMask).toNat

/-- The DLC field, one digit (R71). -/
def dlcField (dlc : Byte) : Line := hexN (dlcNibble dlc) 1

/-- `n`, the number of data bytes rendered (R71, conflict C2). -/
def dataCount (rtr : Bool) (dlc : Byte) : Nat := if rtr then 0 else min (dlcNibble dlc) Config.dataMax

/-- The DATA field of `n` bytes, in payload order, two digits each (R71, R38). -/
def dataField (data : Vector Byte 8) (n : Nat) : Line :=
  (data.toList.take n).flatMap (fun b => hexN b.toNat 2)

/-- The TS field (R72). -/
def tsField (tsEn : Bool) (ts : Word) : Line := if tsEn then hexN (ts.toNat % Config.tsMod) 4 else []

/-- The CR field (R73). -/
def crField : Line := [0x0D]

/-- The LF field (R74). -/
def lfField (lfEn : Bool) : Line := if lfEn then [0x0A] else []

end Sys2Proof.Machine
end

