-- ==== Sys2Proof/Machine/Ops.lean ====
section
/-! DEFINITION. The shared operations: composing outcomes, the queue primitives (00_scope.md R9), the write port, the frame of a clock cycle (00_scope.md R9, 60_exceptions.md R104), and the states that present a chosen selector. SLENC takes no exception (60_exceptions.md R100, R105), so there is no operation that takes one. -/

namespace Sys2Proof.Machine

/-- What a step can answer. -/
abbrev Answer := Host.Outcome State Fault Refusal

/-- Go on from a next state; a fault or a refusal ends the cycle. -/
def andThen (r : Answer) (f : State → Answer) : Answer :=
  match r with
  | .next s => f s
  | .fault e => .fault e
  | .refused e => .refused e

/-- The next state of an answer, if it is one. -/
def nextOf : Answer → Option State
  | .next s => some s
  | .fault _ => none
  | .refused _ => none

/-- The fault of an answer, if it is one. -/
def faultOf : Answer → Option Fault
  | .next _ => none
  | .fault e => some e
  | .refused _ => none

/-! ### Queue primitives -/

/-- `QPop()`: `q[1 ..]` (R92). -/
def qPop (q : List Frame) : List Frame := q.tail

/-- `QPush(f)`: `q ++ [f]` (R92). -/
def qPush (q : List Frame) (f : Frame) : List Frame := q ++ [f]

/-- Write `q`. -/
def State.setQ (s : State) (q : List Frame) : State := { s with q := q }

/-- The observation records `dropped(f)` (R13, R97). -/
def State.recordDrop (s : State) (f : Frame) : State := { s with dropped := s.dropped ++ [f] }

/-! ### RLY's registers -/

/-- Write `st`. -/
def State.setSt (s : State) (st : RelaySt) : State := { s with st := st }

/-- Write `h`, all of it at once (R17). -/
def State.setH (s : State) (h : Option Hold) : State := { s with h := h }

/-- What ACCEPT writes into `h`: the offered frame, bit for bit, and the sampled time and options (R84). -/
def State.sampled (s : State) : Hold where
  toFrame := s.deqFrame
  ts := s.inp.nowMs
  tsEn := s.inp.cfgTsEn
  lfEn := s.inp.cfgLfEn

/-! ### The write port -/

/-- The first `n` bytes of a line, 0x00 after its end (R28). -/
def padTo : Nat → Line → Line
  | 0, _ => []
  | n + 1, [] => 0x00 :: padTo n []
  | n + 1, b :: L => b :: padTo n L

theorem padTo_length : ∀ (n : Nat) (L : Line), (padTo n L).length = n
  | 0, _ => rfl
  | n + 1, [] => by simp [padTo, padTo_length n]
  | n + 1, _ :: L => by simp [padTo, padTo_length n L]

/-- A line on the 32 lanes of `wr_data` (R28). -/
def lanes (L : Line) : Vector Byte 32 := ⟨(padTo 32 L).toArray, by simp [padTo_length]⟩

/-- The pins with `wr_len` and `wr_data` driven by a line (R28). -/
def Outputs.driveLine (o : Outputs) (L : Line) : Outputs :=
  { o with wrLen := BitVec.ofNat 6 L.length, wrData := lanes L }

/-- `wr_data[0 .. wr_len-1]`, what SINK reads at a write handshake (R41). -/
def Outputs.written (o : Outputs) : Line := o.wrData.toList.take o.wrLen.toNat

/-- Drive the write port with a line (R28). -/
def State.driveLine (s : State) (L : Line) : State := { s with out := s.out.driveLine L }

/-- SINK takes one line (R13, R86). -/
def State.recordLine (s : State) (L : Line) : State := { s with lines := s.lines ++ [L] }

/-! ### The frame of a cycle -/

/-- The pins at the start of a cycle, before ENC drives them: `deq_ready` (R26), `wr_valid` (R27), and the write port at 0, as it stays in `IDLE` (R29). -/
def State.idlePins (s : State) : Outputs :=
  { Outputs.zero with deqReady := s.deqReady, wrValid := s.wrValid }

/-- Duty (a) of R104 is broken in this cycle: an owed offer is not there, or is another frame, and `rst = 0` (log 10). -/
def State.dutyBroken (s : State) : Bool :=
  match s.qside with
  | .closed => false
  | .opened none => false
  | .opened (some f) => !s.inp.rst && decide (s.inp.deqOffer ≠ some f)

/-- What the environment owes in the next cycle: this cycle's offer, if it met no handshake and no reset (R104; log 10). -/
def State.owedNext (s : State) : QSide :=
  match s.qside with
  | .closed => .closed
  | .opened _ => .opened (if s.inp.rst || s.deqReady then none else s.inp.deqOffer)

/-- The start of a cycle: the environment's duty is checked, and the pins take this cycle's values. -/
def State.beginCycle (s : State) : Answer :=
  if s.dutyBroken then .fault (.envProtocol s.cycle)
  else .next { s with out := s.idlePins, qside := s.owedNext }

/-- The edge: the next cycle's inputs come up. -/
def State.endCycle (s : State) : State := { s with script := s.script.tail, cycle := s.cycle + 1 }

/-! ### The instructions a cycle selects -/

/-- ENC's instruction: the held record's shape while `st = HOLD`, whatever `rst` is (R28, R29); with no value in `h` the shape is an unknown record's (log 24). -/
def State.encInstr (s : State) : Option Instr :=
  match s.st with
  | .idle => none
  | .hold => some (decode (.sel (s.h.getD s.unknownRecord).sel))

/-- RLY's instruction (R80). -/
def State.relayInstr (s : State) : Instr := decode (.rsel s.rsel)

/-- Q's instruction (R92); none when Q is left out (R104). -/
def State.queueInstr (s : State) : Option Instr :=
  match s.qside with
  | .closed => some (decode (.qsel s.qsel))
  | .opened _ => none

/-! ### States that present a selector (log 15) -/

/-- Every input 0 (R61: "An input not listed in a row is 0"). -/
def quietInputs : CycleInputs := ⟨false, none, false, 0, false, false, none⟩

/-- A frame of zeros. -/
def zeroFrame : Frame := ⟨0, false, false, 0, Vector.replicate 8 0⟩

/-- A held record of zeros. -/
def zeroHold : Hold := ⟨zeroFrame, 0, false, false⟩

/-- The script's first row, or an all-zero row to fill in. -/
def State.row (s : State) : CycleInputs :=
  match s.script with
  | c :: _ => c
  | [] => quietInputs

/-- The state with its current cycle's inputs replaced. -/
def State.withRow (s : State) (c : CycleInputs) : State := { s with script := c :: s.script.tail }

/-- Q with at least one frame. -/
def someFrames (q : List Frame) : List Frame :=
  match q with
  | [] => [zeroFrame]
  | f :: q => f :: q

/-- The state whose current cycle presents a selector vector of one table, with Q modelled. -/
def State.presenting (s : State) : Selector → State
  | .sel v =>
    { (s.withRow { s.row with rst := false, wrReady := false }) with
      qside := .closed
      st := .hold
      h := some { s.h.getD zeroHold with ext := v[1], rtr := v[0] } }
  | .rsel v =>
    { (s.withRow { s.row with rst := v[3], wrReady := v[0] }) with
      qside := .closed
      st := if v[2] then .hold else .idle
      h := if v[2] then some (s.h.getD zeroHold) else s.h
      q := if v[1] then someFrames s.q else [] }
  | .qsel v =>
    { (s.withRow { s.row with rst := v[3], enq := if v[2] then some (s.row.enq.getD zeroFrame) else none }) with
      qside := .closed
      st := if v[1] then .idle else .hold
      h := if v[1] then s.h else some (s.h.getD zeroHold)
      q := if v[0] then List.replicate Config.qdepth ((someFrames s.q).headD zeroFrame)
           else if v[1] then (someFrames s.q).take 1 else s.q.take 1 }

/-- The state whose current cycle runs a table word's instruction (log 6); unchanged where the word is none's. -/
def State.presentingTableWord (s : State) (nbits w : Nat) : State :=
  match decodeTableWord nbits w with
  | some i => s.presenting (encode i)
  | none => s

end Sys2Proof.Machine
end

