-- ==== Sys2Proof/Machine/Encoder.lean ====
section
/-! DEFINITION. ENC (40_encoder.md): the general function `Encode` (R64), the line of each frame shape (R65 to R68), and the meaning of the four ENC rows: drive `wr_len` and `wr_data` from `h` (10_state.md R28). -/

namespace Sys2Proof.Machine

/-- `Encode` (R64). -/
def encodeLine (id : Word) (ext rtr : Bool) (dlc : Byte) (data : Vector Byte 8) (ts : Word) (tsEn lfEn : Bool) : Line :=
  [typeByte ext rtr] ++ (if ext then extIdField id else stdIdField id) ++ dlcField dlc ++
    dataField data (dataCount rtr dlc) ++ tsField tsEn ts ++ crField ++ lfField lfEn

/-- `Encode` of a held record, as R28 applies it. -/
def Hold.line (h : Hold) : Line := encodeLine h.id h.ext h.rtr h.dlc h.data h.ts h.tsEn h.lfEn

/-- The fields every shape ends with: TS, CR, LF (R72 to R74). -/
def Hold.tail (h : Hold) : Line := tsField h.tsEn h.ts ++ crField ++ lfField h.lfEn

/-- The line of a standard data frame (R65). -/
def Hold.stdDataLine (h : Hold) : Line :=
  [0x74] ++ stdIdField h.id ++ dlcField h.dlc ++ dataField h.data (dataCount false h.dlc) ++ h.tail

/-- The line of a standard remote frame (R66): no data, whatever `dlc` is. -/
def Hold.stdRemoteLine (h : Hold) : Line := [0x72] ++ stdIdField h.id ++ dlcField h.dlc ++ h.tail

/-- The line of an extended data frame (R67). -/
def Hold.extDataLine (h : Hold) : Line :=
  [0x54] ++ extIdField h.id ++ dlcField h.dlc ++ dataField h.data (dataCount false h.dlc) ++ h.tail

/-- The line of an extended remote frame (R68). -/
def Hold.extRemoteLine (h : Hold) : Line := [0x52] ++ extIdField h.id ++ dlcField h.dlc ++ h.tail

/-- Read `h` and drive the write port with a line made from it; reading `h` without a value faults, but for a reset cycle (R18, R28, R114). -/
def driveFrom (f : Hold → Line) (s : State) : Answer :=
  match s.readHeld with
  | none => .fault .unwrittenHold
  | some h => .next (s.driveLine (f h))

/-- `ENC_t` (R65). -/
def execEncStdData (s : State) : Answer := driveFrom Hold.stdDataLine s

/-- `ENC_r` (R66). -/
def execEncStdRemote (s : State) : Answer := driveFrom Hold.stdRemoteLine s

/-- `ENC_T` (R67). -/
def execEncExtData (s : State) : Answer := driveFrom Hold.extDataLine s

/-- `ENC_R` (R68). -/
def execEncExtRemote (s : State) : Answer := driveFrom Hold.extRemoteLine s

end Sys2Proof.Machine
end

