-- ==== Sys2Proof/Machine/Queue.lean ====
section
/-! DEFINITION. Q (42_queue.md): the meaning of the seven queue steps. Each reads `q` and PROD's offer, and writes `q` and the record of dropped frames. -/

namespace Sys2Proof.Machine

/-- `Q_RESET` (R93): `q <- []`; an offered frame is not stored. -/
def execQReset (_push _pop _full : Bool) (s : State) : Answer := .next (s.setQ [])

/-- `Q_HOLD` (R94): no change. -/
def execQHold (_full : Bool) (s : State) : Answer := .next s

/-- `Q_POP` (R95): `q <- q[1 ..]`. -/
def execQPop (_full : Bool) (s : State) : Answer := .next (s.setQ (qPop s.q))

/-- `Q_PUSH` (R96): `q <- q ++ [enq_frame]`. -/
def execQPush (s : State) : Answer := .next (s.setQ (qPush s.q s.enqFrame))

/-- `Q_DROP` (R97), `DROP_NEWEST`: no change to `q`; the observation records `dropped(enq_frame)`. -/
def execQDrop (s : State) : Answer := .next (s.recordDrop s.enqFrame)

/-- `Q_PUSH_POP` (R98): the pop acts first, the push second: `q <- q[1 ..] ++ [enq_frame]`. -/
def execQPushPop (s : State) : Answer := .next (s.setQ (qPush (qPop s.q) s.enqFrame))

/-- `Q_DROP_POP` (R99): `q <- q[1 ..]`, and the observation records `dropped(enq_frame)`: fullness was judged before the edge. -/
def execQDropPop (s : State) : Answer := .next ((s.setQ (qPop s.q)).recordDrop s.enqFrame)

end Sys2Proof.Machine
end

