-- ==== Sys2Proof/Machine/Relay.lean ====
section
/-! DEFINITION. RLY (41_relay.md): the meaning of the five relay steps. Each reads the pre-edge state and this cycle's inputs, and writes `st`, `h` and the lines SINK has taken; Q's part of the cycle is Q's own step. -/

namespace Sys2Proof.Machine

/-- `RLY_RESET` (R81): `st <- IDLE; h <- no value`. -/
def execRlyReset (_st _deqValid _wrReady : Bool) (s : State) : Answer :=
  .next ((s.setSt .idle).setH none)

/-- `RLY_WAIT` (R82): no register changes; `wr_ready` is ignored. -/
def execRlyWait (_wrReady : Bool) (s : State) : Answer := .next s

/-- `RLY_ACCEPT` (R84): the offered frame, the time and the options go into `h`; `st <- HOLD`. -/
def execRlyAccept (_wrReady : Bool) (s : State) : Answer :=
  .next ((s.setH (some s.sampled)).setSt .hold)

/-- `RLY_STALL` (R85): no register changes; `deq_valid` is ignored. -/
def execRlyStall (_deqValid : Bool) (s : State) : Answer := .next s

/-- `RLY_EMIT` (R86): SINK takes `wr_data[0 .. wr_len-1]`; `st <- IDLE`; `h` keeps its value (R19). -/
def execRlyEmit (_deqValid : Bool) (s : State) : Answer :=
  .next ((s.recordLine s.out.written).setSt .idle)

end Sys2Proof.Machine
end

