-- ==== Sys2Proof/Machine/Dispatch.lean ====
section
/-! DEFINITION. The meaning of every instruction: one arm per constructor of Instr. -/

namespace Sys2Proof.Machine

def exec (i : Instr) (s : State) : Host.Outcome State Fault Refusal :=
  match i with
  | .encStdData => Sys2Proof.Machine.execEncStdData s
  | .encStdRemote => Sys2Proof.Machine.execEncStdRemote s
  | .encExtData => Sys2Proof.Machine.execEncExtData s
  | .encExtRemote => Sys2Proof.Machine.execEncExtRemote s
  | .rlyReset st deqValid wrReady => Sys2Proof.Machine.execRlyReset st deqValid wrReady s
  | .rlyWait wrReady => Sys2Proof.Machine.execRlyWait wrReady s
  | .rlyAccept wrReady => Sys2Proof.Machine.execRlyAccept wrReady s
  | .rlyStall deqValid => Sys2Proof.Machine.execRlyStall deqValid s
  | .rlyEmit deqValid => Sys2Proof.Machine.execRlyEmit deqValid s
  | .qReset push pop full => Sys2Proof.Machine.execQReset push pop full s
  | .qHold full => Sys2Proof.Machine.execQHold full s
  | .qPop full => Sys2Proof.Machine.execQPop full s
  | .qPush => Sys2Proof.Machine.execQPush s
  | .qDrop => Sys2Proof.Machine.execQDrop s
  | .qPushPop => Sys2Proof.Machine.execQPushPop s
  | .qDropPop => Sys2Proof.Machine.execQDropPop s

end Sys2Proof.Machine
end

