-- ==== Sys2Proof/Machine/Step.lean ====
section
/-! DEFINITION. One step of the machine: one clock cycle of the closed system (00_scope.md R9, 41_relay.md R80). ENC, RLY and Q each run the one instruction their selector picks, all three selectors read from the same pre-edge state. -/

namespace Sys2Proof.Machine

/-- Run an instruction, if there is one. -/
def execOpt (i : Option Instr) (s : State) : Host.Outcome State Fault Refusal :=
  match i with
  | some i => exec i s
  | none => .next s

/-- One clock cycle (R80): the pins are driven, ENC's shape drives the write port, RLY takes its step and Q takes its step.
RLY runs before Q because RLY reads `q[0]` and writes nothing Q reads, so every read is of a pre-edge value (R9; log 4). -/
def step (s : State) : Host.Outcome State Fault Refusal :=
  andThen s.beginCycle fun a =>
  andThen (execOpt s.encInstr a) fun b =>
  andThen (exec s.relayInstr b) fun c =>
  andThen (execOpt s.queueInstr c) fun d =>
  .next d.endCycle

/-- The state whose very next step runs the table word's instruction (log 15). -/
def State.withFetchWord (s : State) (nbits w : Nat) : State := s.presentingTableWord nbits w

end Sys2Proof.Machine
end

