-- ==== Sys2Proof/Machine/Receiver.lean ====
section
/-! DEFINITION. A reader of lines, the inverse of the line format (30_encoding.md R52, R56, R60; 40_encoder.md R77), and the alphabet of lines (30_encoding.md R55). SLENC itself parses nothing; claims about lines are stated with these. -/

namespace Sys2Proof.Machine

/-- The value of an uppercase hex digit (R50), none for any other byte. -/
def unhexd (b : Byte) : Option Nat :=
  if 0x30 ≤ b.toNat ∧ b.toNat ≤ 0x39 then some (b.toNat - 0x30)
  else if 0x41 ≤ b.toNat ∧ b.toNat ≤ 0x46 then some (b.toNat - 0x41 + 10)
  else none

/-- A byte that is an uppercase hex digit, `HEXU` of R60. -/
def isHexU (b : Byte) : Bool := (unhexd b).isSome

/-- Reads a number of `k` hex digits, most significant first, after the digits read so far; with the rest of the line. -/
def readHexFrom (acc : Nat) : Nat → Line → Option (Nat × Line)
  | 0, L => some (acc, L)
  | _ + 1, [] => none
  | k + 1, b :: L =>
    match unhexd b with
    | some d => readHexFrom (16 * acc + d) k L
    | none => none

/-- Reads a number of `k` hex digits, most significant first (R37, R51), with the rest of the line. -/
def readHex (k : Nat) (L : Line) : Option (Nat × Line) := readHexFrom 0 k L

/-- Reads `n` data bytes, two digits each (R77), with the rest of the line. -/
def readData : Nat → Line → Option (List Byte × Line)
  | 0, L => some ([], L)
  | n + 1, L =>
    match readHex 2 L with
    | some (b, L) =>
      match readData n L with
      | some (bs, L) => some (BitVec.ofNat 8 b :: bs, L)
      | none => none
    | none => none

/-- Reads CR and the optional LF that end a line (R73, R74): whether LF is there. -/
def readEnd : Line → Option Bool
  | [c] => if c = 0x0D then some false else none
  | [c, l] => if c = 0x0D ∧ l = 0x0A then some true else none
  | _ => none

/-- Reads the optional TS field and the end of the line: "Given the position of CR, it finds whether TS is present" (R56). -/
def readTail (L : Line) : Option (Option Nat × Bool) :=
  match readEnd L with
  | some lf => some (none, lf)
  | none =>
    match readHex 4 L with
    | some (ts, L) =>
      match readEnd L with
      | some lf => some (some ts, lf)
      | none => none
    | none => none

/-- What a line says. -/
structure LineFields where
  ext : Bool
  rtr : Bool
  /-- The number the ID digits spell. -/
  id : Nat
  /-- The number the DLC digit spells. -/
  dlc : Nat
  /-- The data bytes. -/
  data : List Byte
  /-- The number the TS digits spell, if TS is present. -/
  ts : Option Nat
  /-- Whether LF follows CR. -/
  lf : Bool
  deriving DecidableEq, Repr

/-- The shape of a TYPE byte (R53). -/
def shapeOf (b : Byte) : Option (Bool × Bool) :=
  if b = 0x74 then some (false, false)
  else if b = 0x72 then some (false, true)
  else if b = 0x54 then some (true, false)
  else if b = 0x52 then some (true, true)
  else none

/-- Reads everything after the TYPE byte of a line of a given shape (R52, R56). -/
def readFields (ext rtr : Bool) (L : Line) : Option LineFields :=
  match readHex (idDigits ext) L with
  | none => none
  | some (id, L) =>
    match readHex 1 L with
    | none => none
    | some (d, L) =>
      match readData (if rtr then 0 else min d Config.dataMax) L with
      | none => none
      | some (data, L) =>
        match readTail L with
        | none => none
        | some (ts, lf) => some ⟨ext, rtr, id, d, data, ts, lf⟩

/-- Reads a line (R60's grammar), none for a byte sequence that is no line. -/
def readLine : Line → Option LineFields
  | [] => none
  | b :: L =>
    match shapeOf b with
    | some (ext, rtr) => readFields ext rtr L
    | none => none

/-- What the line of a held record says, by R77: the masked identifier, the masked DLC, the rendered payload bytes and the reduced timestamp. -/
def Hold.fields (h : Hold) : LineFields where
  ext := h.ext
  rtr := h.rtr
  id := (h.id &&& (if h.ext then Config.extIdMask else Config.stdIdMask)).toNat
  dlc := dlcNibble h.dlc
  data := h.data.toList.take (dataCount h.rtr h.dlc)
  ts := if h.tsEn then some (h.ts.toNat % Config.tsMod) else none
  lf := h.lfEn

end Sys2Proof.Machine
end

