-- ==== Sys2Proof/Safety.lean ====
section
/-! DEFINITION. The terms claims are stated in: the invariant of reachable states, what one cycle stores, drops, takes and writes, the frames in flight, and runs of many cycles (00_scope.md R13, 20_memory.md R44, 41_relay.md R87 and R88). -/

namespace Sys2Proof.Machine

/-- The invariant: Q holds at most QDEPTH frames (R90), and `h` holds a record whenever `st = HOLD` (R18). -/
abbrev State.Inv (s : State) : Prop :=
  s.q.length ≤ Config.qdepth ∧ (s.st = .hold → s.h.isSome = true)

/-- The frame Q stores in this cycle (Q_PUSH, Q_PUSH_POP), if it stores one. -/
def State.storedNow (s : State) : List Frame :=
  if s.inp.rst then [] else if s.full then [] else s.inp.enq.toList

/-- The frame Q drops in this cycle (Q_DROP, Q_DROP_POP), if it drops one. -/
def State.droppedNow (s : State) : List Frame :=
  if s.inp.rst then [] else if s.full then s.inp.enq.toList else []

/-- The record whose line SINK takes in this cycle (RLY_EMIT), if it takes one. -/
def State.emittedNow (s : State) : List Hold :=
  if s.inp.rst then [] else if s.st = .hold ∧ s.inp.wrReady = true then s.h.toList else []

/-- The record ACCEPT writes into `h` in this cycle, if RLY takes ACCEPT. -/
def State.acceptedNow (s : State) : List Hold :=
  if s.st = .idle ∧ s.deqValid = true ∧ s.inp.rst = false then [s.sampled] else []

/-- The frame RLY owns: the one in `h` while `st = HOLD` (R16, R87). -/
def State.owned (s : State) : List Frame :=
  match s.st with
  | .idle => []
  | .hold => (s.h.map Hold.toFrame).toList

/-- The frames in the system, oldest first: the one RLY owns, then Q's (R87, R123). -/
def State.inFlight (s : State) : List Frame := s.owned ++ s.q

/-- `n` cycles, stopping at the first fault or refusal. -/
def runCycles : Nat → State → Answer
  | 0, s => .next s
  | n + 1, s => andThen (step s) (runCycles n)

/-- Collects, in order, what each of `n` cycles contributes. -/
def collect {α : Type} (f : State → List α) : Nat → State → List α
  | 0, _ => []
  | n + 1, s =>
    f s ++ (match step s with
      | .next t => collect f n t
      | .fault _ => []
      | .refused _ => [])

/-- `rst = 0` in each of the next `n` cycles. -/
abbrev NoReset (n : Nat) (s : State) : Prop := ∀ k, k < n → (s.inputAt k).rst = false

/-! ### Infinite runs and SINK's duty -/

/-- Cycle `k` of an infinite run: its state, given the inputs the environment chooses for that cycle (R113). -/
def cycleOf (env : Nat → CycleInputs) (r : Nat → State) (k : Nat) : State := (r k).withRow (env k)

/-- `r` is an infinite run under the environment `env`: each state answers the next one. -/
abbrev IsRun (env : Nat → CycleInputs) (r : Nat → State) : Prop := ∀ k, step (cycleOf env r k) = .next (r (k + 1))

/-- SINK's one duty, the SINK row of R113 and R109's fairness condition: with `rst = 0` from some cycle on and `st = HOLD` there, so `wr_valid = 1`, SINK asserts `wr_ready` in that cycle or a later one. A premise for claims, no part of the machine (log 20). -/
def SinkFair (env : Nat → CycleInputs) (r : Nat → State) : Prop :=
  ∀ k, (∀ j, k ≤ j → (env j).rst = false) → (r k).st = .hold → ∃ j, k ≤ j ∧ (env j).wrReady = true

/-- One whole open-interface state: the same registers with Q left out and the environment offering exactly Q's head, as Q itself would (R91, R104). -/
def State.openView (s : State) (owed : Option Frame) : State :=
  { s with
    qside := .opened owed
    script := { s.inp with deqOffer := s.q.head? } :: s.script.tail }

end Sys2Proof.Machine
end

