-- ==== Sys2Proof/Certificates/Slice0/Obligations.lean ====
section
/-! DEFINITION. The statements for the provers: one `def Obligations.<Name> : Prop` each, from the numbered rules of spec/. -/

namespace Sys2Proof.Claims

open Sys2Proof.Machine

/-- `DATA` of `n` bytes as R64 writes it: `hexN(data[0],2) ++ … ++ hexN(data[n-1],2)`. -/
def dataDigits (data : Vector Byte 8) (n : Nat) : Line := (data.toList.take n).flatMap fun b => hexN b.toNat 2

/-- `min(dlc & 0xF, 8)` (R71). -/
def rendered (dlc : Byte) : Nat := min (dlc &&& 0xF).toNat 8

/-- `TS` as R64 writes it. -/
def tsDigits (tsEn : Bool) (ts : Word) : Line := if tsEn then hexN (ts.toNat % 60000) 4 else []

/-- `TS ++ [0x0D] ++ LF`, which every shape ends with (R64). -/
def trailer (h : Hold) : Line := tsDigits h.tsEn h.ts ++ [0x0D] ++ (if h.lfEn then [0x0A] else [])

/-- The pseudocode of R65. -/
def stdDataLine (h : Hold) : Line :=
  [0x74] ++ hexN (h.id &&& 0x7FF).toNat 3 ++ hexN (h.dlc &&& 0xF).toNat 1 ++ dataDigits h.data (rendered h.dlc) ++ trailer h

/-- The pseudocode of R66. -/
def stdRemoteLine (h : Hold) : Line :=
  [0x72] ++ hexN (h.id &&& 0x7FF).toNat 3 ++ hexN (h.dlc &&& 0xF).toNat 1 ++ trailer h

/-- The pseudocode of R67. -/
def extDataLine (h : Hold) : Line :=
  [0x54] ++ hexN (h.id &&& 0x1FFFFFFF).toNat 8 ++ hexN (h.dlc &&& 0xF).toNat 1 ++ dataDigits h.data (rendered h.dlc) ++ trailer h

/-- The pseudocode of R68. -/
def extRemoteLine (h : Hold) : Line :=
  [0x52] ++ hexN (h.id &&& 0x1FFFFFFF).toNat 8 ++ hexN (h.dlc &&& 0xF).toNat 1 ++ trailer h

/-- `n` of R64. -/
def dataBytes (h : Hold) : Nat := if h.rtr then 0 else rendered h.dlc

/-- The pseudocode of R64, for the fields of a held record. -/
def encodeSpec (h : Hold) : Line :=
  (if h.ext then (if h.rtr then [0x52] else [0x54]) else (if h.rtr then [0x72] else [0x74])) ++
    (if h.ext then hexN (h.id &&& 0x1FFFFFFF).toNat 8 else hexN (h.id &&& 0x7FF).toNat 3) ++
    hexN (h.dlc &&& 0xF).toNat 1 ++ dataDigits h.data (dataBytes h) ++ tsDigits h.tsEn h.ts ++ [0x0D] ++
    (if h.lfEn then [0x0A] else [])

/-- The pins carry a line: `wr_len = |L|`, lane `i` is `L[i]`, and 0x00 from `|L|` on (R28). -/
def CarriesLine (o : Outputs) (L : Line) : Prop :=
  o.wrLen.toNat = L.length ∧ ∀ i, (hi : i < 32) → o.wrData[i] = L.getD i 0x00

/-- Running the instruction answers a next state that differs from `s` in `wr_len` and `wr_data` alone, and these carry the line. -/
def DrivesPort (i : Instr) (s : State) (L : Line) : Prop :=
  ∃ o : Outputs, exec i s = .next { s with out := o } ∧ o.deqReady = s.out.deqReady ∧ o.wrValid = s.out.wrValid ∧
    CarriesLine o L

/-- An uppercase hex digit, `HEXU = %x30-39 / %x41-46` (R60). -/
abbrev HexDigit (b : Byte) : Prop := (0x30 ≤ b.toNat ∧ b.toNat ≤ 0x39) ∨ (0x41 ≤ b.toNat ∧ b.toNat ≤ 0x46)

/-- The record RLY owns while `st = HOLD`, as a list of at most one. -/
def heldRecord (s : State) : List Hold :=
  match s.st with
  | .idle => []
  | .hold => s.h.toList

/-- The frames PROD offers in the next `n` cycles, in order. -/
def offers (n : Nat) (s : State) : List Frame := (List.range n).flatMap fun k => (s.inputAt k).enq.toList

/-- In each of the next `n` cycles `rst = 0` and `wr_ready` is `b`. -/
abbrev SinkHolds (b : Bool) (n : Nat) (s : State) : Prop :=
  ∀ k, k < n → (s.inputAt k).rst = false ∧ (s.inputAt k).wrReady = b

/-- Two held records that agree on everything R54 says a line reads. -/
abbrev SameLineInputs (a b : Hold) : Prop :=
  a.ext = b.ext ∧ a.rtr = b.rtr ∧ a.tsEn = b.tsEn ∧ a.lfEn = b.lfEn ∧
    (a.ext = false → a.id &&& 0x7FF = b.id &&& 0x7FF) ∧
    (a.ext = true → a.id &&& 0x1FFFFFFF = b.id &&& 0x1FFFFFFF) ∧
    a.dlc &&& 0xF = b.dlc &&& 0xF ∧
    (∀ j, (hj : j < 8) → j < dataBytes a → a.data[j] = b.data[j]) ∧
    (a.tsEn = true → a.ts = b.ts)

end Sys2Proof.Claims

open Sys2Proof Sys2Proof.Machine Sys2Proof.Claims

/-! ## Selectors, the frame bus and hexadecimal digits -/

/-- Words written out from the patterns of R53 and R63, among them the selector vectors of 95_test_vectors.md section 3. -/
def Obligations.SelectorWordsDecode : Prop :=
  decode (.sel 0b00) = .encStdData ∧ decode (.sel 0b01) = .encStdRemote ∧
  decode (.sel 0b10) = .encExtData ∧ decode (.sel 0b11) = .encExtRemote ∧
  decode (.rsel 0b1111) = .rlyReset true true true ∧ decode (.rsel 0b0001) = .rlyWait true ∧
  decode (.rsel 0b0011) = .rlyAccept true ∧ decode (.rsel 0b0110) = .rlyStall true ∧
  decode (.rsel 0b0111) = .rlyEmit true ∧
  decode (.qsel 0b1000) = .qReset false false false ∧ decode (.qsel 0b0001) = .qHold true ∧
  decode (.qsel 0b0011) = .qPop true ∧ decode (.qsel 0b0100) = .qPush ∧ decode (.qsel 0b0101) = .qDrop ∧
  decode (.qsel 0b0110) = .qPushPop ∧ decode (.qsel 0b0111) = .qDropPop

/-- Decode and encode are inverse to each other on all instructions and all selector vectors. -/
def Obligations.DecodeAndEncodeAreInverse : Prop :=
  (∀ i : Instr, i.wf = true → decode (encode i) = i) ∧ ∀ w : Selector, encode (decode w) = w

/-- R59: every selector value hits exactly one row of its table, the row of the instruction it decodes to, and fits the table's reader. -/
def Obligations.EverySelectorValuePicksOneRow : Prop :=
  ∀ w : Selector,
    (tableRows w.table).filter (fun r => r.hits w.value) = [(decode w).tableRow] ∧
    decodeWord w.table w.value = .ok (decode w)

/-- R63: the bits of the two selector vectors, the two tables, the step each picks, and the agreement of RLY and Q on a pop. -/
def Obligations.StepSelectorsPickTheSteps : Prop :=
  tableRows .relayStep =
    [⟨.relayStep, 0b1000, 0b1000⟩, ⟨.relayStep, 0b0000, 0b1110⟩, ⟨.relayStep, 0b0010, 0b1110⟩,
     ⟨.relayStep, 0b0100, 0b1101⟩, ⟨.relayStep, 0b0101, 0b1101⟩] ∧
  tableRows .queueStep =
    [⟨.queueStep, 0b1000, 0b1000⟩, ⟨.queueStep, 0b0000, 0b1110⟩, ⟨.queueStep, 0b0010, 0b1110⟩,
     ⟨.queueStep, 0b0100, 0b1111⟩, ⟨.queueStep, 0b0101, 0b1111⟩, ⟨.queueStep, 0b0110, 0b1111⟩,
     ⟨.queueStep, 0b0111, 0b1111⟩] ∧
  (∀ v : BitVec 4, ((tableRows .relayStep).filter (fun r => r.hits v.toNat)).length = 1 ∧
    ((tableRows .queueStep).filter (fun r => r.hits v.toNat)).length = 1) ∧
  ∀ s : State, s.qside = .closed →
    (s.rsel[3] = s.inp.rst ∧ s.rsel[2] = decide (s.st = .hold) ∧ s.rsel[1] = decide (0 < s.q.length) ∧
      s.rsel[0] = s.inp.wrReady) ∧
    (s.qsel[3] = s.inp.rst ∧ s.qsel[2] = s.inp.enq.isSome ∧
      s.qsel[1] = decide (0 < s.q.length ∧ s.st = .idle ∧ s.inp.rst = false) ∧
      s.qsel[0] = decide (s.q.length = 20)) ∧
    (tableRows .relayStep).filter (fun r => r.hits s.rsel.toNat) = [s.relayInstr.tableRow] ∧
    (∃ i, s.queueInstr = some i ∧ (tableRows .queueStep).filter (fun r => r.hits s.qsel.toNat) = [i.tableRow]) ∧
    (s.pop = true ↔ ∃ w, s.relayInstr = .rlyAccept w)

/-- R49: the places of the fields on the packed 106-bit bus; packing and unpacking are inverse to each other. -/
def Obligations.PackedFrameBusLayout : Prop :=
  (∀ f : Frame,
    f.pack.extractLsb' 0 32 = f.id ∧ f.pack.getLsbD 32 = f.ext ∧ f.pack.getLsbD 33 = f.rtr ∧
    f.pack.extractLsb' 34 8 = f.dlc ∧ (∀ j, (hj : j < 8) → f.pack.extractLsb' (42 + 8 * j) 8 = f.data[j]) ∧
    Frame.unpack f.pack = f) ∧
  ∀ b : BitVec 106, (Frame.unpack b).pack = b

/-- R50 and R51: `hexd` by its formula and by its table; `hexN(v, k)` has exactly `k` bytes, byte `i` being the digit of nibble `k-1-i`. -/
def Obligations.HexNumbersAreMostSignificantFirst : Prop :=
  (∀ n : BitVec 4, (hexd n).toNat = if n.toNat ≤ 9 then 0x30 + n.toNat else 0x41 + (n.toNat - 10)) ∧
  (∀ n : BitVec 4, [hexd n] = ([0x30, 0x31, 0x32, 0x33, 0x34, 0x35, 0x36, 0x37, 0x38, 0x39,
      0x41, 0x42, 0x43, 0x44, 0x45, 0x46].drop n.toNat).take 1) ∧
  hexN 0x5 3 = [0x30, 0x30, 0x35] ∧
  ∀ v k : Nat, v < 16 ^ k →
    (hexN v k).length = k ∧
    ∀ i, (hi : i < k) → (hexN v k)[i]? = some (hexd (BitVec.ofNat 4 (v / 16 ^ (k - 1 - i) % 16)))

/-! ## The encoder -/

/-- R65: `ENC_t`. Selected by `sel = 0b00`; drives the port with its line and changes nothing else; length; corner cases; the worked example. -/
def Obligations.StdDataShapeDrivesItsLine : Prop :=
  decode (.sel 0b00) = .encStdData ∧
  (∀ (s : State) (h : Hold), s.h = some h →
    DrivesPort .encStdData s (stdDataLine h) ∧
    (stdDataLine h).length = 6 + 2 * rendered h.dlc + (if h.tsEn then 4 else 0) + (if h.lfEn then 1 else 0) ∧
    6 ≤ (stdDataLine h).length ∧ (stdDataLine h).length ≤ 27) ∧
  (∀ a b : Hold, a.id &&& 0x7FF = b.id &&& 0x7FF → a.dlc = b.dlc → a.ts = b.ts → a.tsEn = b.tsEn → a.lfEn = b.lfEn →
    (∀ j, (hj : j < 8) → j < rendered a.dlc → a.data[j] = b.data[j]) → stdDataLine a = stdDataLine b) ∧
  hexN ((0x800 : Word) &&& 0x7FF).toNat 3 = [0x30, 0x30, 0x30] ∧
  rendered 0 = 0 ∧ (∀ d : Byte, 9 ≤ d.toNat → d.toNat ≤ 15 → (d &&& 0xF) = d ∧ rendered d = 8) ∧
  hexN ((0x10 : Byte) &&& 0xF).toNat 1 = [0x30] ∧ rendered 0x10 = 0 ∧
  (∀ h : Hold, h.id = 0x123 → h.dlc = 2 → h.data[0] = 0xAB → h.data[1] = 0xCD → h.tsEn = false → h.lfEn = false →
    stdDataLine h = [0x74, 0x31, 0x32, 0x33, 0x32, 0x41, 0x42, 0x43, 0x44, 0x0D])

/-- R66: `ENC_r`. -/
def Obligations.StdRemoteShapeDrivesItsLine : Prop :=
  decode (.sel 0b01) = .encStdRemote ∧
  (∀ (s : State) (h : Hold), s.h = some h →
    DrivesPort .encStdRemote s (stdRemoteLine h) ∧
    (stdRemoteLine h).length = 6 + (if h.tsEn then 4 else 0) + (if h.lfEn then 1 else 0) ∧
    6 ≤ (stdRemoteLine h).length ∧ (stdRemoteLine h).length ≤ 11) ∧
  (∀ (h : Hold) (data : Vector Byte 8), stdRemoteLine { h with data := data } = stdRemoteLine h) ∧
  (∀ h : Hold, (stdRemoteLine h)[4]? = some (hexd ((h.dlc &&& 0xF).setWidth 4))) ∧
  (∀ h : Hold, h.id = 0x7FF → h.dlc = 5 → h.tsEn = false → h.lfEn = false →
    stdRemoteLine h = [0x72, 0x37, 0x46, 0x46, 0x35, 0x0D])

/-- R67: `ENC_T`. -/
def Obligations.ExtDataShapeDrivesItsLine : Prop :=
  decode (.sel 0b10) = .encExtData ∧
  (∀ (s : State) (h : Hold), s.h = some h →
    DrivesPort .encExtData s (extDataLine h) ∧
    (extDataLine h).length = 11 + 2 * rendered h.dlc + (if h.tsEn then 4 else 0) + (if h.lfEn then 1 else 0) ∧
    11 ≤ (extDataLine h).length ∧ (extDataLine h).length ≤ 32 ∧
    ((extDataLine h)[1]? = some 0x30 ∨ (extDataLine h)[1]? = some 0x31)) ∧
  (∀ a b : Hold, a.id &&& 0x1FFFFFFF = b.id &&& 0x1FFFFFFF → a.dlc = b.dlc → a.ts = b.ts → a.tsEn = b.tsEn →
    a.lfEn = b.lfEn → (∀ j, (hj : j < 8) → j < rendered a.dlc → a.data[j] = b.data[j]) → extDataLine a = extDataLine b) ∧
  hexN ((0xFFFFFFFF : Word) &&& 0x1FFFFFFF).toNat 8 = [0x31, 0x46, 0x46, 0x46, 0x46, 0x46, 0x46, 0x46] ∧
  rendered 0 = 0 ∧ (∀ d : Byte, 9 ≤ d.toNat → d.toNat ≤ 15 → (d &&& 0xF) = d ∧ rendered d = 8) ∧
  hexN ((0x10 : Byte) &&& 0xF).toNat 1 = [0x30] ∧ rendered 0x10 = 0 ∧
  (∀ h : Hold, h.id = 0x1ABCDE → h.dlc = 0 → h.tsEn = false → h.lfEn = false →
    extDataLine h = [0x54, 0x30, 0x30, 0x31, 0x41, 0x42, 0x43, 0x44, 0x45, 0x30, 0x0D])

/-- R68: `ENC_R`. -/
def Obligations.ExtRemoteShapeDrivesItsLine : Prop :=
  decode (.sel 0b11) = .encExtRemote ∧
  (∀ (s : State) (h : Hold), s.h = some h →
    DrivesPort .encExtRemote s (extRemoteLine h) ∧
    (extRemoteLine h).length = 11 + (if h.tsEn then 4 else 0) + (if h.lfEn then 1 else 0) ∧
    11 ≤ (extRemoteLine h).length ∧ (extRemoteLine h).length ≤ 16 ∧
    ((extRemoteLine h)[1]? = some 0x30 ∨ (extRemoteLine h)[1]? = some 0x31)) ∧
  (∀ (h : Hold) (data : Vector Byte 8), extRemoteLine { h with data := data } = extRemoteLine h) ∧
  (∀ a b : Hold, a.id &&& 0x1FFFFFFF = b.id &&& 0x1FFFFFFF → a.dlc = b.dlc → a.ts = b.ts → a.tsEn = b.tsEn →
    a.lfEn = b.lfEn → extRemoteLine a = extRemoteLine b) ∧
  (∀ h : Hold, h.id = 0x12345678 → h.dlc = 8 → h.tsEn = false → h.lfEn = false →
    extRemoteLine h = [0x52, 0x31, 0x32, 0x33, 0x34, 0x35, 0x36, 0x37, 0x38, 0x38, 0x0D])

/-- R64: `Encode`, and the shape `ext : rtr` picks drives exactly `Encode` of the held record, changing nothing else. -/
def Obligations.SelectedShapeDrivesEncode : Prop :=
  ∀ (s : State) (h : Hold), s.h = some h →
    h.line = encodeSpec h ∧
    encodeLine h.id h.ext h.rtr h.dlc h.data h.ts h.tsEn h.lfEn = encodeSpec h ∧
    DrivesPort (decode (.sel (bits2 h.ext h.rtr))) s (encodeSpec h)

/-- R52: the seven fields of a line, their order, lengths, positions and presence. -/
def Obligations.LineIsSevenFieldsInOrder : Prop :=
  ∀ h : Hold,
    let W := if h.ext then 8 else 3
    let n := dataBytes h
    let t := if h.tsEn then 4 else 0
    (h.line.take 1 = [if h.ext then (if h.rtr then 0x52 else 0x54) else (if h.rtr then 0x72 else 0x74)]) ∧
    ((h.line.drop 1).take W =
      if h.ext then hexN (h.id &&& 0x1FFFFFFF).toNat 8 else hexN (h.id &&& 0x7FF).toNat 3) ∧
    ((h.line.drop (W + 1)).take 1 = hexN (h.dlc &&& 0xF).toNat 1) ∧
    ((h.line.drop (W + 2)).take (2 * n) = dataDigits h.data n) ∧
    ((h.line.drop (W + 2 + 2 * n)).take t = if h.tsEn then hexN (h.ts.toNat % 60000) 4 else []) ∧
    ((h.line.drop (W + 2 + 2 * n + t)).take 1 = [0x0D]) ∧
    (h.line.drop (W + 3 + 2 * n + t) = if h.lfEn then [0x0A] else []) ∧
    (h.rtr = true → n = 0)

/-- R62: every line has 6 to 32 bytes, `wr_len` always holds its length, and both bounds are reached by the lines the rule names. -/
def Obligations.LineLengthBounds : Prop :=
  (∀ h : Hold, 6 ≤ h.line.length ∧ h.line.length ≤ 32 ∧ (BitVec.ofNat 6 h.line.length).toNat = h.line.length ∧
    dataBytes h ≤ 8 ∧
    (h.line.length = 6 ↔ h.ext = false ∧ dataBytes h = 0 ∧ h.tsEn = false ∧ h.lfEn = false) ∧
    (h.line.length = 32 ↔ h.ext = true ∧ dataBytes h = 8 ∧ h.tsEn = true ∧ h.lfEn = true)) ∧
  (∃ h : Hold, h.line = [0x72, 0x37, 0x46, 0x46, 0x35, 0x0D]) ∧
  (∃ h : Hold, h.line = [0x74, 0x30, 0x30, 0x30, 0x30, 0x0D]) ∧
  ∃ h : Hold, h.line.length = 32

/-- R55's table, position by position. Its closing sentence ("No line contains a lower-case letter") is read of the bytes after TYPE, since TYPE itself may be `t` or `r` (log 18). -/
def Obligations.LineBytesStayInTheirAlphabet : Prop :=
  ∀ (h : Hold) (i : Nat) (b : Byte), h.line[i]? = some b →
    let W := if h.ext then 8 else 3
    let n := dataBytes h
    let t := if h.tsEn then 4 else 0
    (i = 0 → b = 0x74 ∨ b = 0x72 ∨ b = 0x54 ∨ b = 0x52) ∧
    (i = 1 → h.ext = false → 0x30 ≤ b.toNat ∧ b.toNat ≤ 0x37) ∧
    (i = 1 → h.ext = true → b = 0x30 ∨ b = 0x31) ∧
    (1 ≤ i → i < W + 2 + 2 * n + t → HexDigit b) ∧
    (h.tsEn = true → i = W + 2 + 2 * n → b ≠ 0x46) ∧
    (i = W + 2 + 2 * n + t → b = 0x0D) ∧
    (i = W + 3 + 2 * n + t → b = 0x0A) ∧
    i ≤ W + 3 + 2 * n + t

/-- R73 and R74: exactly one CR, right after TS, DATA or DLC, and LF exactly as the last byte when requested. -/
def Obligations.OneCarriageReturnThenOptionalLineFeed : Prop :=
  ∀ h : Hold,
    h.line.count 0x0D = 1 ∧
    (h.lfEn = false → h.line.getLast? = some 0x0D ∧ (0x0A : Byte) ∉ h.line) ∧
    (h.lfEn = true → h.line.getLast? = some 0x0A ∧ h.line.count 0x0A = 1) ∧
    ∃ body : Line, h.line = body ++ [0x0D] ++ (if h.lfEn then [0x0A] else []) ∧
      body.length = 2 + (if h.ext then 8 else 3) + 2 * dataBytes h + (if h.tsEn then 4 else 0)

/-- R77, the headline of the line format: a reader of the grammar recovers exactly the masked identifier, the masked DLC, the
rendered payload and the reduced timestamp from every line, whatever the record. -/
def Obligations.ReadingALineRecoversItsFields : Prop :=
  ∀ h : Hold, readLine h.line = some
    { ext := h.ext
      rtr := h.rtr
      id := if h.ext then (h.id &&& 0x1FFFFFFF).toNat else (h.id &&& 0x7FF).toNat
      dlc := (h.dlc &&& 0xF).toNat
      data := h.data.toList.take (dataBytes h)
      ts := if h.tsEn then some (h.ts.toNat % 60000) else none
      lf := h.lfEn }

/-- For a well-formed frame (R11) the line says the frame itself: nothing is lost to a mask. -/
def Obligations.WellFormedFramesAreRenderedExactly : Prop :=
  ∀ h : Hold, h.toFrame.wf = true → readLine h.line = some
    { ext := h.ext
      rtr := h.rtr
      id := h.id.toNat
      dlc := h.dlc.toNat
      data := if h.rtr then [] else h.data.toList.take h.dlc.toNat
      ts := if h.tsEn then some (h.ts.toNat % 60000) else none
      lf := h.lfEn }

/-- R75: what the line does not depend on. Records that agree on the inputs R54 lists have the same line. -/
def Obligations.EncodeIgnoresUnreadInputs : Prop :=
  ∀ a b : Hold, SameLineInputs a b → a.line = b.line

/-- R78: the document's testable properties. -/
def Obligations.DocumentPropertiesHold : Prop :=
  ∀ h : Hold,
    (h.ext = false → ((h.line.drop 1).take 3).length = 3 ∧
      (readHex 3 (h.line.drop 1)).map Prod.fst = some (h.id &&& 0x7FF).toNat) ∧
    h.line[(if h.ext then 9 else 4)]? = some (hexd ((h.dlc &&& 0xF).setWidth 4)) ∧
    (h.rtr = true → (readLine h.line).map LineFields.data = some []) ∧
    (h.lfEn = false → h.line.getLast? = some 0x0D) ∧
    (h.lfEn = true → h.line.drop (h.line.length - 2) = [0x0D, 0x0A]) ∧
    (h.rtr = false → h.dlc.toNat ≤ 8 →
      h.line.length = (if h.ext then 8 else 3) + 3 + 2 * h.dlc.toNat + (if h.tsEn then 4 else 0) + (if h.lfEn then 1 else 0)) ∧
    (h.ext = true → h.id.toNat < 2 ^ 29 → (readHex 8 (h.line.drop 1)).map Prod.fst = some h.id.toNat)

/-- R79: from one millisecond to the next the TS value counts up modulo 60000, but at the 32-bit wrap it jumps from 47295 (`B8BF`) to 0. -/
def Obligations.TimestampSequenceJumpsAtTheWrap : Prop :=
  (∀ ts : Word, ts ≠ 0xFFFFFFFF →
    ∃ v, (readHex 4 (tsField true ts)).map Prod.fst = some v ∧ v < 60000 ∧
      (readHex 4 (tsField true (ts + 1))).map Prod.fst = some ((v + 1) % 60000)) ∧
  tsField true 0xFFFFFFFF = [0x42, 0x38, 0x42, 0x46] ∧
  tsField true (0xFFFFFFFF + 1) = [0x30, 0x30, 0x30, 0x30] ∧
  tsField true 59999 = [0x45, 0x41, 0x35, 0x46] ∧ tsField true 60000 = [0x30, 0x30, 0x30, 0x30] ∧
  ∀ ts : Word, tsField false ts = []

/-- R112: every frame the demo generator may offer is well-formed and is a standard data frame, so its line is the line of R65 with `dlc` whole bytes. -/
def Obligations.DemoFramesAreWellFormed : Prop :=
  ∀ h : Hold, h.toFrame.isDemo = true →
    h.toFrame.wf = true ∧ decode (.sel h.sel) = .encStdData ∧ h.line = stdDataLine h ∧ rendered h.dlc = h.dlc.toNat

/-! ## The relay's steps -/

/-- R81: RESET is selected by `rst = 1` alone; it writes `IDLE` and no value, and nothing else; no handshake completes in its cycle. -/
def Obligations.RelayResetStep : Prop :=
  (∀ s : State, s.inp.rst = true →
    (∃ a b c, s.relayInstr = .rlyReset a b c) ∧ s.deqReady = false ∧ s.wrValid = false ∧ s.pop = false) ∧
  (∀ (a b c : Bool) (s : State), exec (.rlyReset a b c) s = .next { s with st := .idle, h := none }) ∧
  ∀ s : State, s.inp.rst = true →
    ∃ t, step s = .next t ∧ t.st = .idle ∧ t.h = none ∧ t.lines = s.lines

/-- R82: WAIT, in `IDLE` with nothing offered: no register changes, whatever `wr_ready` is; `deq_ready = 1`. -/
def Obligations.RelayWaitStep : Prop :=
  (∀ s : State, s.st = .idle → s.deqValid = false → s.inp.rst = false →
    s.relayInstr = .rlyWait s.inp.wrReady ∧ s.deqReady = true) ∧
  (∀ (w : Bool) (s : State), exec (.rlyWait w) s = .next s) ∧
  ∀ s : State, s.st = .idle → s.deqValid = false → s.inp.rst = false → s.dutyBroken = false →
    ∃ t, step s = .next t ∧ t.st = .idle ∧ t.h = s.h ∧ t.lines = s.lines

/-- R84: ACCEPT, in `IDLE` with a frame offered: all of `h` is written with the frame bit for bit and this cycle's `now_ms`, `cfg_ts_en`, `cfg_lf_en`; `st` becomes `HOLD`; nothing else changes. At the same edge Q removes the frame. -/
def Obligations.RelayAcceptStep : Prop :=
  (∀ s : State, s.st = .idle → s.deqValid = true → s.inp.rst = false → s.relayInstr = .rlyAccept s.inp.wrReady) ∧
  (∀ (w : Bool) (s : State), exec (.rlyAccept w) s = .next
    { s with
      st := .hold
      h := some { id := s.deqFrame.id, ext := s.deqFrame.ext, rtr := s.deqFrame.rtr, dlc := s.deqFrame.dlc,
                  data := s.deqFrame.data, ts := s.inp.nowMs, tsEn := s.inp.cfgTsEn, lfEn := s.inp.cfgLfEn } }) ∧
  ∀ (s : State) (f : Frame) (rest : List Frame),
    s.qside = .closed → s.st = .idle → s.q = f :: rest → s.inp.rst = false →
    ∃ t, step s = .next t ∧ s.deqFrame = f ∧ s.deqReady = true ∧ t.st = .hold ∧
      t.h = some { toFrame := f, ts := s.inp.nowMs, tsEn := s.inp.cfgTsEn, lfEn := s.inp.cfgLfEn } ∧
      t.q = rest ++ s.storedNow

/-- R85: STALL, in `HOLD` with `wr_ready = 0`: no register changes, whatever `deq_valid` is; `deq_ready = 0`, Q keeps its frames, and the write port carries the held line. -/
def Obligations.RelayStallStep : Prop :=
  (∀ s : State, s.st = .hold → s.inp.wrReady = false → s.inp.rst = false →
    s.relayInstr = .rlyStall s.deqValid ∧ s.deqReady = false ∧ s.pop = false) ∧
  (∀ (d : Bool) (s : State), exec (.rlyStall d) s = .next s) ∧
  ∀ (s : State) (h : Hold), s.st = .hold → s.h = some h → s.inp.wrReady = false → s.inp.rst = false →
    s.dutyBroken = false →
    ∃ t, step s = .next t ∧ t.st = .hold ∧ t.h = some h ∧ t.lines = s.lines ∧ s.q <+: t.q ∧
      t.out.wrValid = true ∧ CarriesLine t.out (encodeSpec h)

/-- R86: EMIT, in `HOLD` with `wr_ready = 1`: SINK takes `wr_data[0 .. wr_len-1]`, which is `Encode(h…)`, as one write; `st` becomes `IDLE`; `h` keeps its value. -/
def Obligations.RelayEmitStep : Prop :=
  (∀ s : State, s.st = .hold → s.inp.wrReady = true → s.inp.rst = false → s.relayInstr = .rlyEmit s.deqValid) ∧
  (∀ (d : Bool) (s : State), exec (.rlyEmit d) s = .next
    { s with st := .idle, lines := s.lines ++ [s.out.wrData.toList.take s.out.wrLen.toNat] }) ∧
  ∀ (s : State) (h : Hold), s.st = .hold → s.h = some h → s.inp.wrReady = true → s.inp.rst = false →
    s.dutyBroken = false →
    ∃ t, step s = .next t ∧ t.st = .idle ∧ t.h = some h ∧ t.lines = s.lines ++ [encodeSpec h] ∧ s.q <+: t.q

/-! ## The queue's steps -/

/-- R93: Q_RESET is selected by `rst = 1` alone and empties `q`; an offered frame is not stored. -/
def Obligations.QueueResetStep : Prop :=
  (∀ s : State, s.qside = .closed → s.inp.rst = true →
    (∃ a b c, s.queueInstr = some (.qReset a b c)) ∧ s.pop = false) ∧
  (∀ (a b c : Bool) (s : State), exec (.qReset a b c) s = .next { s with q := [] }) ∧
  ∀ s : State, s.qside = .closed → s.inp.rst = true →
    ∃ t, step s = .next t ∧ t.q = [] ∧ t.lines = s.lines ∧ t.dropped = s.dropped

/-- R94: Q_HOLD, neither push nor pop: no change. -/
def Obligations.QueueHoldStep : Prop :=
  (∀ s : State, s.qside = .closed → s.inp.rst = false → s.inp.enq = none → s.pop = false →
    s.queueInstr = some (.qHold s.full)) ∧
  (∀ (x : Bool) (s : State), exec (.qHold x) s = .next s) ∧
  ∀ s : State, s.Inv → s.qside = .closed → s.inp.rst = false → s.inp.enq = none → s.pop = false →
    ∃ t, step s = .next t ∧ t.q = s.q ∧ t.dropped = s.dropped

/-- R95: Q_POP, dequeue only: `q <- q[1 ..]`, and the frame `q[0]` goes into `h` at the same edge; popping the last frame makes `deq_valid = 0` in the next cycle. -/
def Obligations.QueuePopStep : Prop :=
  (∀ s : State, s.qside = .closed → s.inp.rst = false → s.inp.enq = none → s.pop = true →
    s.queueInstr = some (.qPop s.full) ∧ 1 ≤ s.q.length) ∧
  (∀ (x : Bool) (s : State), exec (.qPop x) s = .next { s with q := s.q.drop 1 }) ∧
  ∀ s : State, s.qside = .closed → s.inp.rst = false → s.inp.enq = none → s.pop = true →
    ∃ t, step s = .next t ∧ t.q = s.q.drop 1 ∧ t.h.map Hold.toFrame = s.q.head? ∧
      (s.q.length = 20 → t.q.length = 19) ∧ (s.q.length = 1 → t.deqValid = false)

/-- R96: Q_PUSH, enqueue into a queue that is not full: `q <- q ++ [enq_frame]`; the frame is offered from the next cycle on; pushing the 20th frame makes `full = 1`. -/
def Obligations.QueuePushStep : Prop :=
  (∀ (s : State) (f : Frame), s.qside = .closed → s.inp.rst = false → s.inp.enq = some f → s.pop = false →
    s.q.length < 20 → s.queueInstr = some .qPush ∧ s.enqFrame = f) ∧
  (∀ s : State, exec .qPush s = .next { s with q := s.q ++ [s.enqFrame] }) ∧
  ∀ (s : State) (f : Frame), s.Inv → s.qside = .closed → s.inp.rst = false → s.inp.enq = some f → s.pop = false →
    s.q.length < 20 →
    ∃ t, step s = .next t ∧ t.q = s.q ++ [f] ∧ t.deqValid = true ∧ (s.q = [] → s.deqValid = false ∧ t.deqFrame = f) ∧
      (s.q.length = 19 → t.full = true)

/-- R97: Q_DROP, enqueue into a full queue: `q` keeps its frames in order, and the newest, the offered one, is dropped; RLY, the pins and SINK see the same as if nothing had been offered. -/
def Obligations.QueueDropStep : Prop :=
  (∀ (s : State) (f : Frame), s.qside = .closed → s.inp.rst = false → s.inp.enq = some f → s.pop = false →
    s.q.length = 20 → s.queueInstr = some .qDrop ∧ s.enqFrame = f) ∧
  (∀ s : State, exec .qDrop s = .next { s with dropped := s.dropped ++ [s.enqFrame] }) ∧
  ∀ (s : State) (f : Frame) (c : CycleInputs) (cs : List CycleInputs), s.Inv → s.qside = .closed →
    s.script = c :: cs → c.rst = false → c.enq = some f → s.pop = false → s.q.length = 20 →
    ∃ t u, step s = .next t ∧ t.q = s.q ∧ t.dropped = s.dropped ++ [f] ∧
      step { s with script := { c with enq := none } :: cs } = .next u ∧ u.dropped = s.dropped ∧
      t = { u with dropped := t.dropped }

/-- R98: Q_PUSH_POP: `q <- q[1 ..] ++ [enq_frame]`, and `q[0]` goes into `h`; the new frame never passes the popped one. -/
def Obligations.QueuePushPopStep : Prop :=
  (∀ (s : State) (f : Frame), s.qside = .closed → s.inp.rst = false → s.inp.enq = some f → s.pop = true →
    s.q.length < 20 → s.queueInstr = some .qPushPop ∧ s.enqFrame = f) ∧
  (∀ s : State, exec .qPushPop s = .next { s with q := s.q.drop 1 ++ [s.enqFrame] }) ∧
  ∀ (s : State) (f : Frame), s.qside = .closed → s.inp.rst = false → s.inp.enq = some f → s.pop = true →
    s.q.length < 20 →
    ∃ t, step s = .next t ∧ t.q = s.q.drop 1 ++ [f] ∧ t.h.map Hold.toFrame = s.q.head? ∧
      (s.q.length = 1 → t.q = [f])

/-- R99: Q_DROP_POP: `q <- q[1 ..]`, `q[0]` goes into `h`, and the offered frame is dropped, though a slot frees at this edge. -/
def Obligations.QueueDropPopStep : Prop :=
  (∀ (s : State) (f : Frame), s.qside = .closed → s.inp.rst = false → s.inp.enq = some f → s.pop = true →
    s.q.length = 20 → s.queueInstr = some .qDropPop ∧ s.enqFrame = f) ∧
  (∀ s : State, exec .qDropPop s = .next { s with q := s.q.drop 1, dropped := s.dropped ++ [s.enqFrame] }) ∧
  ∀ (s : State) (f : Frame), s.qside = .closed → s.inp.rst = false → s.inp.enq = some f → s.pop = true →
    s.q.length = 20 →
    ∃ t, step s = .next t ∧ t.q = s.q.drop 1 ∧ t.q.length = 19 ∧ t.h.map Hold.toFrame = s.q.head? ∧
      t.dropped = s.dropped ++ [f]

/-! ## One cycle of the machine -/

/-- A step runs the decoded instructions (R80): the pins take the handshake values with the write port at 0; in `HOLD` the
held record's shape is run, some shape where `h` holds no record (log 24); then RLY's instruction, decoded from `rsel`; then Q's, decoded from `qsel`; all three selectors
are read from the state at the start of the cycle; then the next cycle's inputs come up. -/
def Obligations.StepRunsTheDecodedInstructions : Prop :=
  ∀ s : State, s.qside = .closed →
    let a : State := { s with out := ⟨s.deqReady, s.wrValid, 0, Vector.replicate 32 0⟩ }
    let finish : State → Answer := fun b =>
      andThen (exec (decode (.rsel s.rsel)) b) fun c =>
      andThen (exec (decode (.qsel s.qsel)) c) fun d =>
      .next { d with script := d.script.tail, cycle := d.cycle + 1 }
    (s.st = .idle → step s = finish a) ∧
    (∀ h, s.st = .hold → s.h = some h → step s = andThen (exec (decode (.sel h.sel)) a) finish) ∧
    (s.st = .hold → s.h = none → ∃ v : BitVec 2, step s = andThen (exec (decode (.sel v)) a) finish)

/-- R26 to R29: SLENC's four outputs in every cycle; while `deq_ready = 1` RLY waits, and it takes a frame in the first cycle one is offered. -/
def Obligations.OutputsOfACycle : Prop :=
  ∀ s t : State, step s = .next t →
    t.out.deqReady = decide (s.st = .idle ∧ s.inp.rst = false) ∧
    t.out.wrValid = decide (s.st = .hold ∧ s.inp.rst = false) ∧
    (∀ h, s.st = .hold → s.h = some h →
      CarriesLine t.out (encodeSpec h) ∧ 6 ≤ t.out.wrLen.toNat ∧ t.out.wrLen.toNat ≤ 32) ∧
    (s.st = .idle → t.out.wrLen = 0 ∧ ∀ i, (hi : i < 32) → t.out.wrData[i] = 0) ∧
    (t.out.wrValid = false → t.lines = s.lines) ∧
    (t.out.deqReady = true →
      (s.deqValid = true → t.st = .hold ∧ t.h.map Hold.toFrame = some s.deqFrame) ∧ (s.deqValid = false → t.st = .idle))

/-- R90 and R18 as an invariant: from every state with `|q| <= 20` and a record in `h` whenever `st = HOLD`, a cycle leads only to such states, whatever the inputs, closed or open. -/
def Obligations.EveryCycleKeepsTheInvariant : Prop :=
  ∀ s t : State, s.q.length ≤ 20 → (s.st = .hold → ∃ h, s.h = some h) → step s = .next t →
    t.q.length ≤ 20 ∧ (t.st = .hold → ∃ h, t.h = some h) ∧ (s.qside = .closed → t.qside = .closed)

/-- R31: the state after reset, and the outputs of the first cycle after it. -/
def Obligations.ResetValues : Prop :=
  State.reset.st = .idle ∧ State.reset.h = none ∧ State.reset.q = [] ∧ State.reset.Inv ∧
  (∀ (c : CycleInputs) (cs : List CycleInputs), c.rst = false →
    ∃ t, step { State.reset with script := c :: cs } = .next t ∧ t.out.deqReady = true ∧ t.out.wrValid = false ∧
      t.out.wrLen = 0 ∧ ∀ i, (hi : i < 32) → t.out.wrData[i] = 0) ∧
  ∀ s : State, s.qside = .closed → s.inp.rst = true → ∃ t, step s = .next t ∧ t.st = .idle ∧ t.h = none ∧ t.q = []

/-- R100: no cycle of the closed system stops, for any number of cycles and any inputs. -/
def Obligations.NoCycleEverFails : Prop :=
  ∀ (n : Nat) (s : State), s.Inv → s.qside = .closed →
    ∃ t, runCycles n s = .next t ∧ t.Inv ∧ t.qside = .closed ∧ t.cycle = s.cycle + n

/-- R18's fault UNWRITTEN_HOLD, placed by the model's deduction (log 16, DEDUCED from R18, R22, R28 and R114: only ENC reads `h`, and a reset cycle always completes): the four ENC rows raise it, exactly when `h` holds no value and `rst = 0`; no other instruction, EMIT included, stops, and none is refused. -/
def Obligations.OnlyUnwrittenHoldStopsAnInstruction : Prop :=
  ∀ (i : Instr) (s : State),
    ((i = .encStdData ∨ i = .encStdRemote ∨ i = .encExtData ∨ i = .encExtRemote) ∧
      s.h = none ∧ s.inp.rst = false → exec i s = .fault .unwrittenHold) ∧
    (¬ ((i = .encStdData ∨ i = .encStdRemote ∨ i = .encExtData ∨ i = .encExtRemote) ∧
      s.h = none ∧ s.inp.rst = false) →
      ∃ t, exec i s = .next t)

/-- R92: Q's step in every cycle of the closed system: the one `rst : push : pop : full` picks; the pop acts first, the push second, and the push is judged by the pre-edge `|q|`; a stored frame is never changed. -/
def Obligations.QueueTakesOnePopThenOnePush : Prop :=
  (∀ s : State, s.qside = .closed →
    s.queueInstr = some (decode (.qsel (bits4 s.inp.rst s.inp.enq.isSome (s.deqValid && s.deqReady)
      (decide (s.q.length = 20)))))) ∧
  ∀ s : State, s.Inv → s.qside = .closed → s.inp.rst = false →
    ∃ t, step s = .next t ∧
      t.q = (if s.st = .idle ∧ s.q ≠ [] then s.q.drop 1 else s.q) ++
        (if s.q.length = 20 then [] else s.inp.enq.toList) ∧
      t.dropped = s.dropped ++ (if s.q.length = 20 then s.inp.enq.toList else [])

/-- R91: `deq_valid` and `deq_frame` of the modelled Q; while a frame is offered and neither popped nor reset it stays offered, unchanged. -/
def Obligations.QueueHeadStaysOffered : Prop :=
  ∀ s : State, s.qside = .closed →
    s.deqValid = decide (0 < s.q.length) ∧ (∀ f rest, s.q = f :: rest → s.deqFrame = f) ∧
    (∀ t, step s = .next t → s.deqValid = true → s.pop = false → s.inp.rst = false →
      t.deqValid = true ∧ t.deqFrame = s.deqFrame)

/-- R103: reset overrides everything in its cycle; RLY's two handshakes exclude each other; a push and a pop of one cycle both take effect; a push that finds Q full is dropped even if a pop happens. -/
def Obligations.SimultaneousEventsAreOrdered : Prop :=
  (∀ s : State, s.qside = .closed → s.inp.rst = true →
    ∃ t, step s = .next t ∧ t.st = .idle ∧ t.h = none ∧ t.q = [] ∧ t.lines = s.lines ∧ t.dropped = s.dropped) ∧
  (∀ s : State, ¬ (s.pop = true ∧ s.wrValid = true)) ∧
  (∀ (s : State) (f : Frame), s.qside = .closed → s.inp.rst = false → s.pop = true → s.inp.enq = some f →
    ∃ t, step s = .next t ∧ t.h.map Hold.toFrame = s.q.head? ∧
      (s.q.length < 20 → t.q = s.q.drop 1 ++ [f] ∧ t.dropped = s.dropped) ∧
      (s.q.length = 20 → t.q = s.q.drop 1 ∧ t.dropped = s.dropped ++ [f]))

/-- R114 and R116: any cycle with `rst = 1`, from any state whatever `st`, `h` and `q` hold (R115), runs RESET and Q_RESET and leads to the state of R31; any number of further reset cycles changes nothing of it; held and queued frames are lost and neither loss is signalled. -/
def Obligations.OneResetCycleSuffices : Prop :=
  (∀ s : State, s.qside = .closed → s.inp.rst = true →
    (∃ a b c, s.relayInstr = .rlyReset a b c) ∧ ∃ a b c, s.queueInstr = some (.qReset a b c)) ∧
  ∀ (n : Nat) (s : State), s.qside = .closed → (∀ k, k < n + 1 → (s.inputAt k).rst = true) →
    ∃ t, runCycles (n + 1) s = .next t ∧ t.st = .idle ∧ t.h = none ∧ t.q = [] ∧ t.lines = s.lines ∧ t.dropped = s.dropped

/-- R121: `now_ms`, `cfg_ts_en` and `cfg_lf_en` are read only in ACCEPT cycles: in any other cycle their values change nothing of the next state; in an ACCEPT cycle the record takes this cycle's values, so a line's time is the time its frame left Q. -/
def Obligations.OptionsAndTimeAreReadOnlyInAccept : Prop :=
  (∀ s : State, s.st = .idle → s.deqValid = true → s.inp.rst = false → s.dutyBroken = false →
    ∃ t h, step s = .next t ∧ t.h = some h ∧ h.ts = s.inp.nowMs ∧ h.tsEn = s.inp.cfgTsEn ∧ h.lfEn = s.inp.cfgLfEn) ∧
  ∀ (s : State) (c : CycleInputs) (cs : List CycleInputs) (now : Word) (tsEn lfEn : Bool),
    s.script = c :: cs → (∀ w, s.relayInstr ≠ .rlyAccept w) →
    step { s with script := { c with nowMs := now, cfgTsEn := tsEn, cfgLfEn := lfEn } :: cs } = step s

/-- R26 and R122: no path from `wr_ready` to the dequeue: in `IDLE` the value of `wr_ready` changes nothing of the cycle. -/
def Obligations.IdleCyclesIgnoreWrReady : Prop :=
  ∀ (s : State) (c : CycleInputs) (cs : List CycleInputs) (b : Bool), s.st = .idle → s.script = c :: cs →
    step { s with script := { c with wrReady := b } :: cs } = step s

/-! ## Runs -/

/-- R87: ownership. In a cycle without reset every frame in the system, and the one Q stores, is afterwards either written to SINK in this cycle or still in the system, in the same order; in a reset cycle all are discarded. -/
def Obligations.FramesAreOwnedByExactlyOne : Prop :=
  ∀ s : State, s.Inv → s.qside = .closed →
    ∃ t, step s = .next t ∧
      (s.inp.rst = false → s.inFlight ++ s.storedNow = s.emittedNow.map Hold.toFrame ++ t.inFlight) ∧
      (s.inp.rst = true → t.inFlight = []) ∧ s.owned.length ≤ 1

/-- R88 and R44, the headline: a cycle writes at most one line, and over any number of cycles without reset, records are written to SINK exactly once each and in
the order they were accepted, each line is `Encode` of its record, and the frames written are exactly the frames that entered
Q, in order, less those still in the system. -/
def Obligations.ExactlyOnceAndInOrder : Prop :=
  (∀ s : State, s.emittedNow.length ≤ 1) ∧
  ∀ (n : Nat) (s : State), s.Inv → s.qside = .closed → NoReset n s →
    ∃ t, runCycles n s = .next t ∧
      heldRecord s ++ collect State.acceptedNow n s = collect State.emittedNow n s ++ heldRecord t ∧
      t.lines = s.lines ++ (collect State.emittedNow n s).map encodeSpec ∧
      s.inFlight ++ collect State.storedNow n s = (collect State.emittedNow n s).map Hold.toFrame ++ t.inFlight ∧
      t.dropped = s.dropped ++ collect State.droppedNow n s

/-- R123: at every edge the system holds at most 21 frames, and 21 is reached. -/
def Obligations.AtMostTwentyOneFramesHeld : Prop :=
  (∀ s : State, s.Inv → s.inFlight.length = s.q.length + (if s.st = .hold then 1 else 0) ∧ s.inFlight.length ≤ 21) ∧
  ∃ s : State, s.Inv ∧ s.inFlight.length = 21

/-- R126: while SINK never takes the offered line, RLY stays in `HOLD` with the same record, nothing is written, Q takes the first offers until it holds 20, and every later offer is dropped. -/
def Obligations.StalledSinkFillsTheQueue : Prop :=
  ∀ (n : Nat) (s : State), s.Inv → s.qside = .closed → s.st = .hold → SinkHolds false n s →
    ∃ t, runCycles n s = .next t ∧ t.st = .hold ∧ t.h = s.h ∧ t.lines = s.lines ∧
      t.q = s.q ++ (offers n s).take (20 - s.q.length) ∧
      t.dropped = s.dropped ++ (offers n s).drop (20 - s.q.length)

/-- R119: an offer lasts until it is taken. After any number of stalled cycles, the first cycle with `wr_ready = 1` writes the line that was offered from the first cycle on, once, and in every cycle until then the port showed that same line with `wr_valid = 1`. -/
def Obligations.OfferedLineIsStableUntilTaken : Prop :=
  ∀ (n : Nat) (s : State) (h : Hold), s.Inv → s.qside = .closed → s.st = .hold → s.h = some h → SinkHolds false n s →
    (s.inputAt n).rst = false → (s.inputAt n).wrReady = true →
    (∀ k t, k < n → runCycles (k + 1) s = .next t → t.out.wrValid = true ∧ CarriesLine t.out (encodeSpec h)) ∧
    ∃ t, runCycles (n + 1) s = .next t ∧ t.st = .idle ∧ t.lines = s.lines ++ [encodeSpec h] ∧
      t.out.wrValid = true ∧ CarriesLine t.out (encodeSpec h)

/-- R89 with a bound (R125's peak throughput of one frame per two cycles): while `rst = 0` and SINK is always ready, `2k` cycles from `IDLE` write the lines of the first `k` frames of Q, in order. -/
def Obligations.QueuedFramesAreWrittenInTwoCyclesEach : Prop :=
  ∀ (k : Nat) (s : State), s.Inv → s.qside = .closed → s.st = .idle → k ≤ s.q.length → SinkHolds true (2 * k) s →
    ∃ t, runCycles (2 * k) s = .next t ∧ t.st = .idle ∧
      (collect State.emittedNow (2 * k) s).map Hold.toFrame = s.q.take k ∧
      t.lines = s.lines ++ (collect State.emittedNow (2 * k) s).map encodeSpec ∧ s.q.drop k <+: t.q

/-- R120 and R125: a frame pushed into an empty Q in one cycle is accepted in the next, with that next cycle's time and options, and its line is offered and can be written in the one after. -/
def Obligations.PushAcceptEmitTakeThreeCycles : Prop :=
  ∀ (s : State) (f : Frame), s.qside = .closed → s.st = .idle → s.q = [] → NoReset 3 s →
    s.inp.enq = some f → (s.inputAt 2).wrReady = true →
    let h : Hold := { toFrame := f, ts := (s.inputAt 1).nowMs, tsEn := (s.inputAt 1).cfgTsEn, lfEn := (s.inputAt 1).cfgLfEn }
    (∃ t, runCycles 1 s = .next t ∧ t.st = .idle ∧ t.q = [f] ∧ t.lines = s.lines) ∧
    (∃ t, runCycles 2 s = .next t ∧ t.st = .hold ∧ t.h = some h ∧ t.lines = s.lines) ∧
    (∃ t, runCycles 3 s = .next t ∧ t.st = .idle ∧ t.lines = s.lines ++ [encodeSpec h] ∧ CarriesLine t.out (encodeSpec h))

/-! ## Open-interface mode -/

/-- R104: in open-interface mode a cycle stops with ENV_PROTOCOL exactly when an owed offer is missing or changed while `rst = 0`; an offer that meets no handshake in a cycle without reset is owed in the next; the closed system never stops so. The clause "unless rst = 1" is read as log 10 says. -/
def Obligations.BrokenOffersAreFaults : Prop :=
  (∀ (s : State) (k : Nat),
    step s = .fault (.envProtocol k) ↔
      k = s.cycle ∧ s.inp.rst = false ∧ ∃ f, s.qside = .opened (some f) ∧ s.inp.deqOffer ≠ some f) ∧
  ∀ (s t : State) (w : Option Frame), s.qside = .opened w → step s = .next t →
    (s.inp.rst = false → s.st = .hold → t.qside = .opened s.inp.deqOffer) ∧
    (s.inp.rst = true ∨ s.st = .idle → t.qside = .opened none)

/-- The modelled Q is one of the environments open-interface mode allows (R104 "When Q … is modelled, it meets (a) and (b) by construction"): a cycle of the closed system and a cycle with Q left out and its head offered from outside give the same RLY registers, pins and lines, and what the environment then owes is again no more than Q's head. -/
def Obligations.OpenInterfaceCoversTheModelledQueue : Prop :=
  ∀ (s : State) (owed : Option Frame), s.Inv → s.qside = .closed → (owed = none ∨ owed = s.q.head?) →
    ∃ t u, step s = .next t ∧ step (s.openView owed) = .next u ∧
      u.st = t.st ∧ u.h = t.h ∧ u.out = t.out ∧ u.lines = t.lines ∧
      ∃ w, u.qside = .opened w ∧ (w = none ∨ w = t.q.head?)

/-! ## The host's interface -/

/-- The state that presents a selector vector runs its instruction: RLY's and ENC's always, Q's for every value that can occur (`pop = 1` needs `rst = 0`, R93). The cycle answers a next state. The model's own construction (log 15). -/
def Obligations.PresentedSelectorsAreRun : Prop :=
  ∀ s : State, s.q.length ≤ 20 →
    (∀ v : BitVec 2, (s.presenting (.sel v)).encInstr = some (decode (.sel v)) ∧
      ∃ t, step (s.presenting (.sel v)) = .next t) ∧
    (∀ v : BitVec 4, (s.presenting (.rsel v)).relayInstr = decode (.rsel v) ∧
      ∃ t, step (s.presenting (.rsel v)) = .next t) ∧
    (∀ v : BitVec 4, ¬ (v[3] = true ∧ v[1] = true) → (s.presenting (.qsel v)).queueInstr = some (decode (.qsel v)) ∧
      ∃ t, step (s.presenting (.qsel v)) = .next t)

/-! ## Infinite runs and SINK's duty -/

/-- R100 and R103 over infinite runs: every environment has exactly one run from every closed state that meets the invariant; and the finite runs of a script are the beginnings of the run whose environment is that script. -/
def Obligations.EveryEnvironmentHasOneRun : Prop :=
  (∀ (env : Nat → CycleInputs) (s : State), s.Inv → s.qside = .closed →
    ∃ r : Nat → State, r 0 = s ∧ IsRun env r ∧ ∀ k, (r k).Inv ∧ (r k).qside = .closed) ∧
  (∀ (env : Nat → CycleInputs) (r r' : Nat → State), IsRun env r → IsRun env r' → r 0 = r' 0 → r = r') ∧
  ∀ (env : Nat → CycleInputs) (r : Nat → State), IsRun env r → (∀ k, env k = (r 0).inputAt k) →
    ∀ n, runCycles n (r 0) = .next (r n)

/-- R109: SINK chooses `wr_ready` freely in each cycle; a write handshake hands over `wr_data[0 .. wr_len-1]` as one write; a SINK that meets its fairness duty takes every offered line, which stays offered until then; `wr_ready = 1` in infinitely many cycles meets the duty, holding it at 0 for ever does not (R126), and no bound is put on how long a SINK that meets it may stall. -/
def Obligations.FairSinkTakesEveryOfferedLine : Prop :=
  (∀ (env : Nat → CycleInputs) (r : Nat → State), IsRun env r → (r 0).Inv → (r 0).qside = .closed → SinkFair env r →
    ∀ k h, (∀ j, k ≤ j → (env j).rst = false) → (r k).st = .hold → (r k).h = some h →
      ∃ j, k ≤ j ∧ (env j).wrReady = true ∧
        (∀ i, k ≤ i → i ≤ j → (cycleOf env r i).wrValid = true ∧ (r i).h = some h ∧ (r i).lines = (r k).lines) ∧
        (r (j + 1)).lines = (r k).lines ++ [(r (j + 1)).out.wrData.toList.take (r (j + 1)).out.wrLen.toNat] ∧
        (r (j + 1)).lines = (r k).lines ++ [encodeSpec h]) ∧
  (∀ (env : Nat → CycleInputs) (r : Nat → State), (∀ n, ∃ j, n ≤ j ∧ (env j).wrReady = true) → SinkFair env r) ∧
  (∀ (env : Nat → CycleInputs) (r : Nat → State) (k : Nat),
    (∀ j, k ≤ j → (env j).rst = false ∧ (env j).wrReady = false) → (r k).st = .hold → ¬ SinkFair env r) ∧
  ∀ (n : Nat) (s : State), s.Inv → s.qside = .closed → s.st = .hold →
    ∃ (env : Nat → CycleInputs) (r : Nat → State), r 0 = s ∧ IsRun env r ∧ SinkFair env r ∧
      (∀ k, (env k).rst = false) ∧ ∀ k, k < n → (env k).wrReady = false ∧ (r (k + 1)).st = .hold

/-- R89: while `rst = 0` and SINK meets its duty, every ACCEPT is followed by the EMIT of its record, with no other EMIT between; every frame Q holds is taken, after exactly the frames before it; and no run ends: every environment has an infinite one. -/
def Obligations.FairRunsMakeProgress : Prop :=
  (∀ (env : Nat → CycleInputs) (s : State), s.Inv → s.qside = .closed → ∃ r : Nat → State, r 0 = s ∧ IsRun env r) ∧
  ∀ (env : Nat → CycleInputs) (r : Nat → State), IsRun env r → (r 0).Inv → (r 0).qside = .closed →
    (∀ k, (env k).rst = false) → SinkFair env r →
    (∀ k h, (cycleOf env r k).acceptedNow = [h] →
      ∃ j, k < j ∧ (cycleOf env r j).emittedNow = [h] ∧ ∀ i, k ≤ i → i < j → (cycleOf env r i).emittedNow = []) ∧
    ∀ (k i : Nat) (f : Frame), (r k).q[i]? = some f →
      ∃ j h, k ≤ j ∧ (cycleOf env r j).acceptedNow = [h] ∧ h.toFrame = f ∧
        ((List.range (j - k)).flatMap fun m => (cycleOf env r (k + m)).acceptedNow).map Hold.toFrame = (r k).q.take i
end

