-- ==== Sys2Proof/Laws/Decode.lean ====
section
/-! SUPPORT. Selector vectors bit by bit, and the bits of a field placed on the packed frame bus. -/

namespace Sys2Proof

@[simp] theorem bits4_three (a b c d : Bool) : (bits4 a b c d)[3] = a := by revert a b c d; decide
@[simp] theorem bits4_two (a b c d : Bool) : (bits4 a b c d)[2] = b := by revert a b c d; decide
@[simp] theorem bits4_one (a b c d : Bool) : (bits4 a b c d)[1] = c := by revert a b c d; decide
@[simp] theorem bits4_zero (a b c d : Bool) : (bits4 a b c d)[0] = d := by revert a b c d; decide
@[simp] theorem bits2_one (a b : Bool) : (bits2 a b)[1] = a := by revert a b; decide
@[simp] theorem bits2_zero (a b : Bool) : (bits2 a b)[0] = b := by revert a b; decide

theorem bits4_eta (v : BitVec 4) : bits4 v[3] v[2] v[1] v[0] = v := by revert v; decide
theorem bits2_eta (v : BitVec 2) : bits2 v[1] v[0] = v := by revert v; decide

/-- Bit `i` of a field placed at bit `lo`. -/
theorem getLsbD_placed {w : Nat} (v : BitVec w) (lo i : Nat) :
    (placed v lo).getLsbD i = (decide (i < 106) && decide (lo ≤ i) && v.getLsbD (i - lo)) := by
  simp only [placed, BitVec.getLsbD_shiftLeft, BitVec.getLsbD_setWidth]
  by_cases h : i < 106
  · by_cases h' : i < lo
    · simp [h, h']
    · simp [h, Nat.not_lt.mp h', show i - lo < 106 by omega]
  · simp [h]

end Sys2Proof
end

