-- ==== Sys2Proof/Laws/Encoder.lean ====
section
/-! SUPPORT. Lengths of the fields and lines of ENC, and what the write port carries once a line is driven. -/

namespace Sys2Proof.Machine

@[simp] theorem hexN_length (v : Nat) : ∀ k, (hexN v k).length = k
  | 0 => rfl
  | k + 1 => by simp [hexN, hexN_length v k]

@[simp] theorem stdIdField_length (id : Word) : (stdIdField id).length = 3 := by simp [stdIdField]

@[simp] theorem extIdField_length (id : Word) : (extIdField id).length = 8 := by simp [extIdField]

@[simp] theorem dlcField_length (dlc : Byte) : (dlcField dlc).length = 1 := by simp [dlcField]

theorem dataCount_le (rtr : Bool) (dlc : Byte) : dataCount rtr dlc ≤ 8 := by
  unfold dataCount Config.dataMax
  split <;> omega

theorem flatMap_hex2_length (L : List Byte) : (L.flatMap fun b => hexN b.toNat 2).length = 2 * L.length := by
  induction L with
  | nil => rfl
  | cons b L ih => simp only [List.flatMap_cons, List.length_append, hexN_length, ih, List.length_cons]; omega

theorem dataField_length (data : Vector Byte 8) {n : Nat} (hn : n ≤ 8) : (dataField data n).length = 2 * n := by
  rw [dataField, flatMap_hex2_length, List.length_take, Vector.length_toList, Nat.min_eq_left hn]

@[simp] theorem tsField_length (tsEn : Bool) (ts : Word) : (tsField tsEn ts).length = if tsEn then 4 else 0 := by
  cases tsEn <;> simp [tsField]

@[simp] theorem lfField_length (lfEn : Bool) : (lfField lfEn).length = if lfEn then 1 else 0 := by
  cases lfEn <;> simp [lfField]

/-- The length formula of R56 for a held record's line. -/
theorem line_length (h : Hold) :
    h.line.length = (if h.ext then 8 else 3) + 2 * dataCount h.rtr h.dlc + (if h.tsEn then 4 else 0) +
      (if h.lfEn then 1 else 0) + 3 := by
  have hd := dataField_length h.data (dataCount_le h.rtr h.dlc)
  simp only [Hold.line, encodeLine, crField, List.length_append, List.length_singleton, dlcField_length, hd,
    tsField_length, lfField_length]
  cases h.ext <;> simp <;> omega

theorem line_length_le (h : Hold) : h.line.length ≤ 32 := by
  have := dataCount_le h.rtr h.dlc
  rw [line_length]; split <;> split <;> split <;> omega

theorem le_line_length (h : Hold) : 6 ≤ h.line.length := by
  rw [line_length]; split <;> omega

@[simp] theorem readHeld_some {s : State} {h : Hold} (hh : s.h = some h) : s.readHeld = some h := by
  simp [State.readHeld, hh]

theorem readHeld_eq_none {s : State} : s.readHeld = none ↔ s.h = none ∧ s.inp.rst = false := by
  unfold State.readHeld
  cases s.h <;> cases s.inp.rst <;> simp

theorem driveFrom_read {f : Hold → Line} {s : State} {h : Hold} (hh : s.readHeld = some h) :
    driveFrom f s = .next (s.driveLine (f h)) := by simp [driveFrom, hh]

theorem driveFrom_unread {f : Hold → Line} {s : State} (hh : s.readHeld = none) :
    driveFrom f s = .fault .unwrittenHold := by simp [driveFrom, hh]

/-- The shape `sel` picks drives exactly `Encode` of the record read (R53, R64 to R68). -/
theorem exec_shape (s : State) (h : Hold) (hh : s.readHeld = some h) :
    exec (decode (.sel h.sel)) s = .next (s.driveLine h.line) := by
  rcases h with ⟨⟨id, ext, rtr, dlc, data⟩, ts, tsEn, lfEn⟩
  cases ext <;> cases rtr <;>
    simp [Hold.sel, bits2, decode, decodeSel, exec, execEncStdData, execEncStdRemote, execEncExtData,
      execEncExtRemote, driveFrom_read hh, Hold.line, encodeLine, Hold.stdDataLine, Hold.stdRemoteLine,
      Hold.extDataLine, Hold.extRemoteLine, Hold.tail, typeByte, dataCount, dataField]

theorem take_padTo (L : Line) : ∀ n, L.length ≤ n → (padTo n L).take L.length = L := by
  induction L with
  | nil => intro n _; simp
  | cons b L ih =>
    intro n hn
    cases n with
    | zero => simp at hn
    | succ n => simp [padTo, ih n (by simpa using hn)]

/-- Every shape faults when the read of `h` gives nothing (R18). -/
theorem exec_shape_unread {s : State} (hh : s.readHeld = none) (v : BitVec 2) :
    exec (decode (.sel v)) s = .fault .unwrittenHold := by
  have sel_cases : decode (.sel v) = .encStdData ∨ decode (.sel v) = .encStdRemote ∨ decode (.sel v) = .encExtData ∨
      decode (.sel v) = .encExtRemote := by revert v; decide
  rcases sel_cases with e | e | e | e <;> rw [e] <;>
    exact driveFrom_unread hh

/-- SINK reads back the line the port is driven with (R28, R41). -/
theorem written_driveLine (o : Outputs) {L : Line} (hL : L.length ≤ 32) : (o.driveLine L).written = L := by
  have h64 : L.length % 2 ^ 6 = L.length := Nat.mod_eq_of_lt (by omega)
  simp only [Outputs.written, Outputs.driveLine, BitVec.toNat_ofNat, h64]
  exact take_padTo L 32 hL

end Sys2Proof.Machine
end

