-- ==== Sys2Proof/Laws/PerInstr.lean ====
section
/-! SUPPORT. One statement about every instruction as syntax: its word is one of its own row's words in spec/opcode_table.json. -/

namespace Sys2Proof.Laws

/-- The instruction's selector belongs to its row's table, matches the row's pattern under its mask, and fits the selector's width (30_encoding.md R53, R63). -/
def MatchesTableRow.Statement (i : Instr) : Prop :=
  (encode i).table = i.tableRow.table ∧ i.tableRow.hits (encode i).value = true ∧ (encode i).value < 2 ^ i.selectorWidth

theorem MatchesTableRow.encStdData : MatchesTableRow.Statement .encStdData := by
  unfold MatchesTableRow.Statement; decide
theorem MatchesTableRow.encStdRemote : MatchesTableRow.Statement .encStdRemote := by
  unfold MatchesTableRow.Statement; decide
theorem MatchesTableRow.encExtData : MatchesTableRow.Statement .encExtData := by
  unfold MatchesTableRow.Statement; decide
theorem MatchesTableRow.encExtRemote : MatchesTableRow.Statement .encExtRemote := by
  unfold MatchesTableRow.Statement; decide
theorem MatchesTableRow.rlyReset (st deqValid wrReady : Bool) :
    MatchesTableRow.Statement (.rlyReset st deqValid wrReady) := by
  revert st deqValid wrReady; unfold MatchesTableRow.Statement; decide
theorem MatchesTableRow.rlyWait (wrReady : Bool) : MatchesTableRow.Statement (.rlyWait wrReady) := by
  revert wrReady; unfold MatchesTableRow.Statement; decide
theorem MatchesTableRow.rlyAccept (wrReady : Bool) : MatchesTableRow.Statement (.rlyAccept wrReady) := by
  revert wrReady; unfold MatchesTableRow.Statement; decide
theorem MatchesTableRow.rlyStall (deqValid : Bool) : MatchesTableRow.Statement (.rlyStall deqValid) := by
  revert deqValid; unfold MatchesTableRow.Statement; decide
theorem MatchesTableRow.rlyEmit (deqValid : Bool) : MatchesTableRow.Statement (.rlyEmit deqValid) := by
  revert deqValid; unfold MatchesTableRow.Statement; decide
theorem MatchesTableRow.qReset (push pop full : Bool) : MatchesTableRow.Statement (.qReset push pop full) := by
  revert push pop full; unfold MatchesTableRow.Statement; decide
theorem MatchesTableRow.qHold (full : Bool) : MatchesTableRow.Statement (.qHold full) := by
  revert full; unfold MatchesTableRow.Statement; decide
theorem MatchesTableRow.qPop (full : Bool) : MatchesTableRow.Statement (.qPop full) := by
  revert full; unfold MatchesTableRow.Statement; decide
theorem MatchesTableRow.qPush : MatchesTableRow.Statement .qPush := by
  unfold MatchesTableRow.Statement; decide
theorem MatchesTableRow.qDrop : MatchesTableRow.Statement .qDrop := by
  unfold MatchesTableRow.Statement; decide
theorem MatchesTableRow.qPushPop : MatchesTableRow.Statement .qPushPop := by
  unfold MatchesTableRow.Statement; decide
theorem MatchesTableRow.qDropPop : MatchesTableRow.Statement .qDropPop := by
  unfold MatchesTableRow.Statement; decide

end Sys2Proof.Laws
end

