-- ==== Sys2Proof/Laws/Receiver.lean ====
section
/-! SUPPORT. Digits and lanes by position, and what the reader makes of each field the encoder writes. -/

namespace Sys2Proof.Machine

theorem nib_eq (k v : Nat) : nib k v = BitVec.ofNat 4 (v / 16 ^ k % 16) := by
  apply BitVec.eq_of_toNat_eq
  simp [nib, Nat.shiftRight_eq_div_pow, Nat.pow_mul]

/-- Digit `i` of a number. -/
theorem hexN_getElem (v : Nat) : ∀ k i, i < k → (hexN v k)[i]? = some (hexd (nib (k - 1 - i) v))
  | 0, i, h => by omega
  | k + 1, 0, _ => by simp [hexN]
  | k + 1, i + 1, h => by
    simp only [hexN, List.getElem?_cons_succ, hexN_getElem v k i (by omega)]
    congr 3; omega

theorem padTo_getElem : ∀ (n : Nat) (L : Line) (i : Nat), i < n → (padTo n L)[i]? = some (L.getD i 0)
  | 0, _, i, h => by omega
  | n + 1, [], 0, _ => by simp [padTo]
  | n + 1, [], i + 1, h => by simpa [padTo] using padTo_getElem n [] i (by omega)
  | n + 1, b :: L, 0, _ => by simp [padTo]
  | n + 1, b :: L, i + 1, h => by simpa [padTo] using padTo_getElem n L i (by omega)

/-- Lane `i` of the write port. -/
theorem lanes_getElem (L : Line) (i : Nat) (hi : i < 32) : (lanes L)[i] = L.getD i 0 := by
  have h : (lanes L)[i]? = some (L.getD i 0) := by simpa [lanes] using padTo_getElem 32 L i hi
  simpa [Vector.getElem?_eq_getElem hi] using h

theorem unhexd_hexd : ∀ n : BitVec 4, unhexd (hexd n) = some n.toNat := by decide

theorem readHexFrom_hexN (v : Nat) (L : Line) :
    ∀ k acc, readHexFrom acc k (hexN v k ++ L) = some (16 ^ k * acc + v % 16 ^ k, L)
  | 0, acc => by simp [hexN, readHexFrom, Nat.mod_one]
  | k + 1, acc => by
    simp only [hexN, List.cons_append, readHexFrom, unhexd_hexd, readHexFrom_hexN v L k, nib_eq, BitVec.toNat_ofNat]
    rw [Nat.mod_eq_of_lt (show v / 16 ^ k % 16 < 2 ^ 4 from Nat.mod_lt _ (by decide)), Nat.pow_succ, Nat.mod_mul]
    congr 2; ring

/-- Reading back the digits of a number gives the number (R51, R77). -/
theorem readHex_hexN {v k : Nat} (h : v < 16 ^ k) (L : Line) : readHex k (hexN v k ++ L) = some (v, L) := by
  simp [readHex, readHexFrom_hexN, Nat.mod_eq_of_lt h]

/-- Reading back the data digits gives the bytes (R77). -/
theorem readData_digits (L : Line) :
    ∀ bs : List Byte, readData bs.length ((bs.flatMap fun b => hexN b.toNat 2) ++ L) = some (bs, L)
  | [] => rfl
  | b :: bs => by
    simp only [List.length_cons, readData, List.flatMap_cons, List.append_assoc]
    rw [readHex_hexN (v := b.toNat) (k := 2) (by have := b.isLt; omega)]
    simp [readData_digits L bs]

@[simp] theorem readEnd_crlf (lf : Bool) : readEnd (crField ++ lfField lf) = some lf := by cases lf <;> rfl

/-- Reading the end of a line gives the reduced time, if it is there, and whether LF is (R72 to R74). -/
theorem readTail_tail (h : Hold) :
    readTail h.tail = some (if h.tsEn then some (h.ts.toNat % Config.tsMod) else none, h.lfEn) := by
  unfold Hold.tail tsField
  cases h.tsEn
  · simp [readTail]
  · have e : readEnd (hexN (h.ts.toNat % Config.tsMod) 4 ++ (crField ++ lfField h.lfEn)) = none := by
      simp [hexN, readEnd, crField]
    have lt : h.ts.toNat % Config.tsMod < 16 ^ 4 :=
      Nat.lt_trans (Nat.mod_lt _ (by decide)) (show Config.tsMod < 16 ^ 4 by decide)
    simp only [if_true, List.append_assoc, readTail, e, readHex_hexN lt, readEnd_crlf]

end Sys2Proof.Machine
end

