-- ==== Sys2Proof/Laws/State.lean ====
section
/-! SUPPORT. One lemma per field and update of State, true by rfl, so that no proof unfolds a record update. -/

namespace Sys2Proof.Machine

variable (s : State)

/-! ### `setQ` -/

@[simp] theorem setQ_st (q : List Frame) : (s.setQ q).st = s.st := rfl
@[simp] theorem setQ_h (q : List Frame) : (s.setQ q).h = s.h := rfl
@[simp] theorem setQ_q (q : List Frame) : (s.setQ q).q = q := rfl
@[simp] theorem setQ_out (q : List Frame) : (s.setQ q).out = s.out := rfl
@[simp] theorem setQ_lines (q : List Frame) : (s.setQ q).lines = s.lines := rfl
@[simp] theorem setQ_dropped (q : List Frame) : (s.setQ q).dropped = s.dropped := rfl
@[simp] theorem setQ_script (q : List Frame) : (s.setQ q).script = s.script := rfl
@[simp] theorem setQ_cycle (q : List Frame) : (s.setQ q).cycle = s.cycle := rfl
@[simp] theorem setQ_qside (q : List Frame) : (s.setQ q).qside = s.qside := rfl
@[simp] theorem setQ_inp (q : List Frame) : (s.setQ q).inp = s.inp := rfl
@[simp] theorem setQ_enqFrame (q : List Frame) : (s.setQ q).enqFrame = s.enqFrame := rfl
@[simp] theorem setQ_push (q : List Frame) : (s.setQ q).push = s.push := rfl

/-! ### `setSt` -/

@[simp] theorem setSt_st (st : RelaySt) : (s.setSt st).st = st := rfl
@[simp] theorem setSt_h (st : RelaySt) : (s.setSt st).h = s.h := rfl
@[simp] theorem setSt_q (st : RelaySt) : (s.setSt st).q = s.q := rfl
@[simp] theorem setSt_out (st : RelaySt) : (s.setSt st).out = s.out := rfl
@[simp] theorem setSt_lines (st : RelaySt) : (s.setSt st).lines = s.lines := rfl
@[simp] theorem setSt_dropped (st : RelaySt) : (s.setSt st).dropped = s.dropped := rfl
@[simp] theorem setSt_script (st : RelaySt) : (s.setSt st).script = s.script := rfl
@[simp] theorem setSt_cycle (st : RelaySt) : (s.setSt st).cycle = s.cycle := rfl
@[simp] theorem setSt_qside (st : RelaySt) : (s.setSt st).qside = s.qside := rfl
@[simp] theorem setSt_inp (st : RelaySt) : (s.setSt st).inp = s.inp := rfl
@[simp] theorem setSt_enqFrame (st : RelaySt) : (s.setSt st).enqFrame = s.enqFrame := rfl
@[simp] theorem setSt_push (st : RelaySt) : (s.setSt st).push = s.push := rfl

/-! ### `setH` -/

@[simp] theorem setH_st (h : Option Hold) : (s.setH h).st = s.st := rfl
@[simp] theorem setH_h (h : Option Hold) : (s.setH h).h = h := rfl
@[simp] theorem setH_q (h : Option Hold) : (s.setH h).q = s.q := rfl
@[simp] theorem setH_out (h : Option Hold) : (s.setH h).out = s.out := rfl
@[simp] theorem setH_lines (h : Option Hold) : (s.setH h).lines = s.lines := rfl
@[simp] theorem setH_dropped (h : Option Hold) : (s.setH h).dropped = s.dropped := rfl
@[simp] theorem setH_script (h : Option Hold) : (s.setH h).script = s.script := rfl
@[simp] theorem setH_cycle (h : Option Hold) : (s.setH h).cycle = s.cycle := rfl
@[simp] theorem setH_qside (h : Option Hold) : (s.setH h).qside = s.qside := rfl
@[simp] theorem setH_inp (h : Option Hold) : (s.setH h).inp = s.inp := rfl
@[simp] theorem setH_enqFrame (h : Option Hold) : (s.setH h).enqFrame = s.enqFrame := rfl
@[simp] theorem setH_push (h : Option Hold) : (s.setH h).push = s.push := rfl

/-! ### `recordDrop` -/

@[simp] theorem recordDrop_st (f : Frame) : (s.recordDrop f).st = s.st := rfl
@[simp] theorem recordDrop_h (f : Frame) : (s.recordDrop f).h = s.h := rfl
@[simp] theorem recordDrop_q (f : Frame) : (s.recordDrop f).q = s.q := rfl
@[simp] theorem recordDrop_out (f : Frame) : (s.recordDrop f).out = s.out := rfl
@[simp] theorem recordDrop_lines (f : Frame) : (s.recordDrop f).lines = s.lines := rfl
@[simp] theorem recordDrop_dropped (f : Frame) : (s.recordDrop f).dropped = s.dropped ++ [f] := rfl
@[simp] theorem recordDrop_script (f : Frame) : (s.recordDrop f).script = s.script := rfl
@[simp] theorem recordDrop_cycle (f : Frame) : (s.recordDrop f).cycle = s.cycle := rfl
@[simp] theorem recordDrop_qside (f : Frame) : (s.recordDrop f).qside = s.qside := rfl
@[simp] theorem recordDrop_inp (f : Frame) : (s.recordDrop f).inp = s.inp := rfl
@[simp] theorem recordDrop_enqFrame (f : Frame) : (s.recordDrop f).enqFrame = s.enqFrame := rfl
@[simp] theorem recordDrop_push (f : Frame) : (s.recordDrop f).push = s.push := rfl

/-! ### `recordLine` -/

@[simp] theorem recordLine_st (L : Line) : (s.recordLine L).st = s.st := rfl
@[simp] theorem recordLine_h (L : Line) : (s.recordLine L).h = s.h := rfl
@[simp] theorem recordLine_q (L : Line) : (s.recordLine L).q = s.q := rfl
@[simp] theorem recordLine_out (L : Line) : (s.recordLine L).out = s.out := rfl
@[simp] theorem recordLine_lines (L : Line) : (s.recordLine L).lines = s.lines ++ [L] := rfl
@[simp] theorem recordLine_dropped (L : Line) : (s.recordLine L).dropped = s.dropped := rfl
@[simp] theorem recordLine_script (L : Line) : (s.recordLine L).script = s.script := rfl
@[simp] theorem recordLine_cycle (L : Line) : (s.recordLine L).cycle = s.cycle := rfl
@[simp] theorem recordLine_qside (L : Line) : (s.recordLine L).qside = s.qside := rfl
@[simp] theorem recordLine_inp (L : Line) : (s.recordLine L).inp = s.inp := rfl
@[simp] theorem recordLine_enqFrame (L : Line) : (s.recordLine L).enqFrame = s.enqFrame := rfl
@[simp] theorem recordLine_push (L : Line) : (s.recordLine L).push = s.push := rfl

/-! ### `driveLine` -/

@[simp] theorem driveLine_st (L : Line) : (s.driveLine L).st = s.st := rfl
@[simp] theorem driveLine_h (L : Line) : (s.driveLine L).h = s.h := rfl
@[simp] theorem driveLine_q (L : Line) : (s.driveLine L).q = s.q := rfl
@[simp] theorem driveLine_out (L : Line) : (s.driveLine L).out = s.out.driveLine L := rfl
@[simp] theorem driveLine_lines (L : Line) : (s.driveLine L).lines = s.lines := rfl
@[simp] theorem driveLine_dropped (L : Line) : (s.driveLine L).dropped = s.dropped := rfl
@[simp] theorem driveLine_script (L : Line) : (s.driveLine L).script = s.script := rfl
@[simp] theorem driveLine_cycle (L : Line) : (s.driveLine L).cycle = s.cycle := rfl
@[simp] theorem driveLine_qside (L : Line) : (s.driveLine L).qside = s.qside := rfl
@[simp] theorem driveLine_inp (L : Line) : (s.driveLine L).inp = s.inp := rfl
@[simp] theorem driveLine_enqFrame (L : Line) : (s.driveLine L).enqFrame = s.enqFrame := rfl
@[simp] theorem driveLine_push (L : Line) : (s.driveLine L).push = s.push := rfl

/-! ### `endCycle` -/

@[simp] theorem endCycle_st : (s.endCycle).st = s.st := rfl
@[simp] theorem endCycle_h : (s.endCycle).h = s.h := rfl
@[simp] theorem endCycle_q : (s.endCycle).q = s.q := rfl
@[simp] theorem endCycle_out : (s.endCycle).out = s.out := rfl
@[simp] theorem endCycle_lines : (s.endCycle).lines = s.lines := rfl
@[simp] theorem endCycle_dropped : (s.endCycle).dropped = s.dropped := rfl
@[simp] theorem endCycle_script : (s.endCycle).script = s.script.tail := rfl
@[simp] theorem endCycle_cycle : (s.endCycle).cycle = s.cycle + 1 := rfl
@[simp] theorem endCycle_qside : (s.endCycle).qside = s.qside := rfl

/-! ### `withRow` -/

@[simp] theorem withRow_st (c : CycleInputs) : (s.withRow c).st = s.st := rfl
@[simp] theorem withRow_h (c : CycleInputs) : (s.withRow c).h = s.h := rfl
@[simp] theorem withRow_q (c : CycleInputs) : (s.withRow c).q = s.q := rfl
@[simp] theorem withRow_out (c : CycleInputs) : (s.withRow c).out = s.out := rfl
@[simp] theorem withRow_lines (c : CycleInputs) : (s.withRow c).lines = s.lines := rfl
@[simp] theorem withRow_dropped (c : CycleInputs) : (s.withRow c).dropped = s.dropped := rfl
@[simp] theorem withRow_script (c : CycleInputs) : (s.withRow c).script = c :: s.script.tail := rfl
@[simp] theorem withRow_cycle (c : CycleInputs) : (s.withRow c).cycle = s.cycle := rfl
@[simp] theorem withRow_qside (c : CycleInputs) : (s.withRow c).qside = s.qside := rfl

/-! ### Reset (R31) -/

@[simp] theorem reset_st : State.reset.st = .idle := rfl
@[simp] theorem reset_h : State.reset.h = none := rfl
@[simp] theorem reset_q : State.reset.q = [] := rfl
@[simp] theorem reset_out : State.reset.out = Outputs.zero := rfl
@[simp] theorem reset_lines : State.reset.lines = [] := rfl
@[simp] theorem reset_dropped : State.reset.dropped = [] := rfl
@[simp] theorem reset_script : State.reset.script = [] := rfl
@[simp] theorem reset_cycle : State.reset.cycle = 0 := rfl
@[simp] theorem reset_qside : State.reset.qside = .closed := rfl

end Sys2Proof.Machine
end

