-- ==== Sys2Proof/Laws/Step.lean ====
section
/-! SUPPORT. What one cycle can do, said once: each selector picks its instruction, and a cycle that keeps the environment's duty answers the state written out here field by field. -/

namespace Sys2Proof.Machine

/-! ### Composing answers -/

@[simp] theorem andThen_next (s : State) (f : State → Answer) : andThen (.next s) f = f s := rfl
@[simp] theorem andThen_fault (e : Fault) (f : State → Answer) : andThen (.fault e) f = .fault e := rfl
@[simp] theorem andThen_refused (e : Refusal) (f : State → Answer) : andThen (.refused e) f = .refused e := rfl
@[simp] theorem execOpt_none (s : State) : execOpt none s = .next s := rfl
@[simp] theorem execOpt_some (i : Instr) (s : State) : execOpt (some i) s = exec i s := rfl

theorem andThen_eq_next {r : Answer} {f : State → Answer} {t : State} (h : andThen r f = .next t) :
    ∃ s, r = .next s ∧ f s = .next t := by
  cases r with
  | next s => exact ⟨s, rfl, h⟩
  | fault e => simp at h
  | refused e => simp at h

/-! ### Inputs of later cycles -/

@[simp] theorem inputAt_zero (s : State) : s.inputAt 0 = s.inp := by
  cases hs : s.script <;> simp [State.inputAt, State.inp, hs]

/-! ### Selectors -/

/-- What RLY writes in a cycle, by its selector (R81 to R86), the outputs being driven already. -/
def State.relayNext (s c : State) : State :=
  if s.inp.rst then (c.setSt .idle).setH none
  else match s.st, s.deqValid, s.inp.wrReady with
    | .idle, false, _ => c
    | .idle, true, _ => (c.setH (some c.sampled)).setSt .hold
    | .hold, _, false => c
    | .hold, _, true => (c.recordLine c.out.written).setSt .idle

theorem exec_relayInstr (s c : State) : exec s.relayInstr c = .next (s.relayNext c) := by
  unfold State.relayInstr State.relayNext State.rsel
  rcases s.inp.rst <;> rcases s.st <;> rcases s.deqValid <;> rcases s.inp.wrReady <;> rfl

/-- What Q writes in a cycle, by its selector (R93 to R99). -/
def State.queueNext (s c : State) : State :=
  if s.inp.rst then c.setQ []
  else match s.push, s.pop, s.full with
    | false, false, _ => c
    | false, true, _ => c.setQ (qPop c.q)
    | true, false, false => c.setQ (qPush c.q c.enqFrame)
    | true, false, true => c.recordDrop c.enqFrame
    | true, true, false => c.setQ (qPush (qPop c.q) c.enqFrame)
    | true, true, true => (c.setQ (qPop c.q)).recordDrop c.enqFrame

theorem exec_queueInstr (s c : State) : exec (decode (.qsel s.qsel)) c = .next (s.queueNext c) := by
  unfold State.queueNext State.qsel
  rcases s.inp.rst <;> rcases s.push <;> rcases s.pop <;> rcases s.full <;> rfl

/-! ### The next state, field by field -/

/-- The pins of a cycle: handshake wires, and the held line while `st = HOLD` (R26 to R29). -/
def State.pins (s : State) : Outputs :=
  match s.st with
  | .hold => s.idlePins.driveLine (s.h.getD s.unknownRecord).line
  | .idle => s.idlePins

/-- `st` after the edge. -/
def State.stNext (s : State) : RelaySt :=
  if s.inp.rst then .idle
  else match s.st with
    | .idle => if s.deqValid then .hold else .idle
    | .hold => if s.inp.wrReady then .idle else .hold

/-- `h` after the edge. -/
def State.hNext (s : State) : Option Hold :=
  if s.inp.rst then none
  else if s.st = .idle ∧ s.deqValid = true then some s.sampled else s.h

/-- `q` after the edge. -/
def State.qNext (s : State) : List Frame :=
  match s.qside with
  | .closed => if s.inp.rst then [] else (if s.pop then s.q.tail else s.q) ++ s.storedNow
  | .opened _ => s.q

/-- The dropped frames after the edge. -/
def State.droppedNext (s : State) : List Frame :=
  match s.qside with
  | .closed => s.dropped ++ s.droppedNow
  | .opened _ => s.dropped

/-- The whole state after the edge. -/
def State.cycled (s : State) : State where
  st := s.stNext
  h := s.hNext
  q := s.qNext
  out := s.pins
  lines := s.lines ++ s.emittedNow.map Hold.line
  dropped := s.droppedNext
  script := s.script.tail
  cycle := s.cycle + 1
  qside := s.owedNext

theorem sampled_congr {s c : State} (hq : c.q = s.q) (hs : c.script = s.script) (hc : c.cycle = s.cycle)
    (ho : c.qside = s.owedNext) : c.sampled = s.sampled := by
  have hi : c.inp = s.inp := by simp [State.inp, hs, hc]
  have hf : c.deqFrame = s.deqFrame := by
    unfold State.deqFrame
    rw [ho, hi, hc, hq]
    unfold State.owedNext
    cases s.qside <;> rfl
  simp [State.sampled, hi, hf]

/-- The state once the pins are driven: ENC has run, RLY and Q have not. -/
def State.driven (s : State) : State := { s with out := s.pins, qside := s.owedNext }

/-- The driven state with RLY's registers after the edge. -/
def State.relayed (s : State) : State :=
  { s.driven with st := s.stNext, h := s.hNext, lines := s.lines ++ s.emittedNow.map Hold.line }

/-- ENC drives the pins of R28 and R29. -/
theorem drive_pins (s : State) (hI : s.st = .hold → s.inp.rst = false → s.h.isSome = true) :
    execOpt s.encInstr { s with out := s.idlePins, qside := s.owedNext } = .next s.driven := by
  rcases s with ⟨_ | _, _ | h, q, out, lines, dropped, script, cycle, qside⟩
  · rfl
  · rfl
  · refine exec_shape _ _ ?_
    have hr := (Bool.not_eq_false _).mp fun hr => by simpa using hI rfl hr
    exact if_pos hr
  · exact exec_shape _ h rfl

theorem pins_written (s : State) {h : Hold} (hst : s.st = .hold) (hh : s.h = some h) : s.pins.written = h.line := by
  simp only [State.pins, hst, hh]
  exact written_driveLine _ (line_length_le h)

theorem driven_sampled (s : State) : s.driven.sampled = s.sampled := sampled_congr rfl rfl rfl rfl

theorem relayNext_driven (s : State) (hI : s.st = .hold → s.inp.rst = false → s.h.isSome = true) :
    s.relayNext s.driven = s.relayed := by
  have hsam := driven_sampled s
  unfold State.relayNext State.relayed State.stNext State.hNext State.emittedNow
  cases hr : s.inp.rst with
  | true => simp [State.setSt, State.setH, State.driven]
  | false =>
    cases hst : s.st with
    | idle => cases hd : s.deqValid <;> simp [hst, State.setSt, State.setH, State.driven]; exact hsam
    | hold =>
      obtain ⟨h, hh⟩ := Option.isSome_iff_exists.mp (hI hst hr)
      have hw : s.pins.written = h.line := pins_written s hst hh
      cases hw' : s.inp.wrReady
      · simp [hst, State.driven]
      · simp [hst, hh, hw, State.recordLine, State.setSt, State.driven]

theorem queueInstr_relayed (s : State) :
    execOpt s.queueInstr s.relayed = .next { s.relayed with q := s.qNext, dropped := s.droppedNext } := by
  unfold State.queueInstr State.qNext State.droppedNext State.storedNow State.droppedNow
  cases hq : s.qside with
  | opened _ => rfl
  | closed =>
    rw [execOpt_some, exec_queueInstr]
    have he : s.relayed.enqFrame = s.enqFrame := rfl
    have hrq : s.relayed.q = s.q := rfl
    have hrd : s.relayed.dropped = s.dropped := rfl
    unfold State.queueNext
    cases hr : s.inp.rst with
    | true => simp [State.setQ]; rfl
    | false =>
      cases hn : s.inp.enq with
      | none => cases hp : s.pop <;> cases hf : s.full <;> simp [State.push, hn, State.setQ, qPop, hrq, hrd] <;> rfl
      | some f =>
        have hf' : s.enqFrame = f := by simp [State.enqFrame, hn]
        cases hp : s.pop <;> cases hf : s.full <;>
          simp [State.push, hn, State.setQ, State.recordDrop, qPop, qPush, he, hf', hrq, hrd]

/-- The central equation: a cycle that keeps the environment's duty, and has a reset or a record in `h` while `st = HOLD`, answers `cycled`. -/
theorem step_eq_cycled (s : State) (hI : s.st = .hold → s.inp.rst = false → s.h.isSome = true) (hd : s.dutyBroken = false) :
    step s = .next s.cycled := by
  unfold step State.beginCycle
  rw [if_neg (by simp [hd]), andThen_next, drive_pins s hI, andThen_next, exec_relayInstr, andThen_next,
    relayNext_driven s hI, queueInstr_relayed, andThen_next]
  rfl

/-- A closed system owes nothing to an environment. -/
theorem dutyBroken_closed {s : State} (hq : s.qside = .closed) : s.dutyBroken = false := by
  simp [State.dutyBroken, hq]

theorem step_closed {s : State} (hI : s.Inv) (hq : s.qside = .closed) : step s = .next s.cycled :=
  step_eq_cycled s (fun h _ => hI.2 h) (dutyBroken_closed hq)

/-- A cycle with `rst = 1` always answers a next state, whatever `st`, `h` and `q` hold (R114, R115). -/
theorem step_reset {s : State} (hr : s.inp.rst = true) : step s = .next s.cycled :=
  step_eq_cycled s (fun _ h => by simp [hr] at h) (by unfold State.dutyBroken; split <;> simp [hr])

/-- A cycle that breaks the environment's duty stops (R104). -/
theorem step_dutyBroken {s : State} (hd : s.dutyBroken = true) : step s = .fault (.envProtocol s.cycle) := by
  simp [step, State.beginCycle, hd]

/-- A cycle in `HOLD` without a record and without reset stops (R18). -/
theorem step_unwritten {s : State} (hst : s.st = .hold) (hh : s.h = none) (hr : s.inp.rst = false) (hd : s.dutyBroken = false) :
    step s = .fault .unwrittenHold := by
  rcases s with ⟨st, h, q, out, lines, dropped, script, cycle, qside⟩
  subst hst hh
  unfold step State.beginCycle
  rw [if_neg (by simp [hd]), andThen_next, State.encInstr, execOpt_some, exec_shape_unread, andThen_fault]
  show (if _ then _ else _) = _
  exact if_neg (ne_true_of_eq_false hr)

/-- Every next state of a cycle is `cycled`. -/
theorem step_next_inv {s t : State} (h : step s = .next t) : t = s.cycled := by
  cases hd : s.dutyBroken with
  | true => rw [step_dutyBroken hd] at h; cases h
  | false =>
    by_cases hu : s.st = .hold ∧ s.h = none ∧ s.inp.rst = false
    · rw [step_unwritten hu.1 hu.2.1 hu.2.2 hd] at h; cases h
    · rw [step_eq_cycled s (fun a b => Option.isSome_iff_ne_none.mpr fun c => hu ⟨a, c, b⟩) hd] at h; cases h; rfl

end Sys2Proof.Machine
end

