-- ==== Sys2Proof/Laws/Run.lean ====
section
/-! SUPPORT. Every answer a cycle can give, and runs of the closed system one cycle at a time. -/

namespace Sys2Proof.Machine

/-- Everything a cycle can answer. -/
theorem step_total (s : State) :
    step s = if s.dutyBroken then .fault (.envProtocol s.cycle)
      else if s.st = .hold ∧ s.h = none ∧ s.inp.rst = false then .fault .unwrittenHold else .next s.cycled := by
  by_cases hd : s.dutyBroken = true
  · rw [if_pos hd, step_dutyBroken hd]
  · have hd' : s.dutyBroken = false := by simpa using hd
    rw [if_neg hd]
    split
    · rename_i h; exact step_unwritten h.1 h.2.1 h.2.2 hd'
    · rename_i h
      exact step_eq_cycled s (fun hs hr => Option.isSome_iff_ne_none.mpr fun hh => h ⟨hs, hh, hr⟩) hd'

/-- A cycle uses up one row of the script. -/
theorem inputAt_cycled (s : State) (k : Nat) : s.cycled.inputAt k = s.inputAt (k + 1) := by
  unfold State.inputAt State.cycled
  simp only [List.getElem?_tail]
  cases s.script[k + 1]? <;> simp [Nat.add_comm, Nat.add_left_comm]

theorem runCycles_succ {s : State} (hI : s.Inv) (hq : s.qside = .closed) (n : Nat) :
    runCycles (n + 1) s = runCycles n s.cycled := by
  rw [runCycles, step_closed hI hq]; rfl

theorem collect_succ {α : Type} (f : State → List α) {s : State} (hI : s.Inv) (hq : s.qside = .closed) (n : Nat) :
    collect f (n + 1) s = f s ++ collect f n s.cycled := by
  rw [collect, step_closed hI hq]

theorem closed_cycled {s : State} (hq : s.qside = .closed) : s.cycled.qside = .closed := by
  simp [State.cycled, State.owedNext, hq]

/-- `HOLD` is entered with a record, and left with it (R18). -/
theorem held_cycled {s : State} (hh : s.st = .hold → s.h.isSome = true) : s.cycled.st = .hold → s.cycled.h.isSome = true := by
  simp only [State.cycled, State.stNext, State.hNext]
  cases s.inp.rst
  · cases hst : s.st
    · cases s.deqValid <;> simp
    · intro _; simpa using hh hst
  · simp

/-! ### Infinite runs -/

@[simp] theorem withRow_inp (s : State) (c : CycleInputs) : (s.withRow c).inp = c := rfl

/-- Naming the inputs a cycle has anyway changes nothing of what it answers. -/
theorem step_withRow_inp (s : State) : step (s.withRow s.inp) = step s := by
  rw [step_total, step_total]
  rcases s with ⟨st, h, q, out, lines, dropped, _ | ⟨c, cs⟩, cycle, qside⟩ <;> rfl

/-- What holds at the start of a run and is kept by every cycle holds in all of its states. -/
theorem IsRun.induction {env : Nat → CycleInputs} {r : Nat → State} {P : State → Prop} (hr : IsRun env r)
    (start : P (r 0)) (keep : ∀ s t c, P s → step (s.withRow c) = .next t → P t) : ∀ k, P (r k)
  | 0 => start
  | k + 1 => keep _ _ _ (IsRun.induction hr start keep k) (hr k)

/-- Each state of a run is the one its cycle leads to. -/
theorem IsRun.succ_eq {env : Nat → CycleInputs} {r : Nat → State} (hr : IsRun env r) (k : Nat) :
    r (k + 1) = (cycleOf env r k).cycled := step_next_inv (hr k)

end Sys2Proof.Machine
end

