-- ==== Sys2Proof/Tests/Slice0.lean ====
section
/-! SUPPORT. Tests on fixed values taken from the spec (95_test_vectors.md unless a comment says otherwise), and one witness for the hypotheses of each statement. -/

namespace Sys2Proof.Tests

open Sys2Proof Sys2Proof.Machine Sys2Proof.Claims

/-! ### Frames, records and states to test with -/

def zeros : Vector Byte 8 := #v[0, 0, 0, 0, 0, 0, 0, 0]
def counting : Vector Byte 8 := #v[0x00, 0x11, 0x22, 0x33, 0x44, 0x55, 0x66, 0x77]
def oneTo8 : Vector Byte 8 := #v[1, 2, 3, 4, 5, 6, 7, 8]

/-- The frame of scenario S1. -/
def frameS1 : Frame := ⟨0x123, false, false, 2, #v[0xAB, 0xCD, 0, 0, 0, 0, 0, 0]⟩
/-- The frames A, B and X of section 3. -/
def frameA : Frame := ⟨0x1ABCDE, true, false, 0, zeros⟩
def frameB : Frame := ⟨0x7FF, false, true, 5, zeros⟩
def frameX : Frame := ⟨0xFFFFFFFF, true, true, 0xFF, oneTo8⟩

/-- A record with time 0 and no options. -/
def plain (f : Frame) : Hold := ⟨f, 0, false, false⟩

/-- The post state's record of V4. -/
def heldA : Hold := ⟨frameA, 7, true, false⟩

/-- `IDLE` with queue `q` in a cycle with inputs `c`. -/
def idleIn (q : List Frame) (c : CycleInputs) : State := { State.reset with q := q, script := [c] }
/-- `HOLD` with record `h` and queue `q` in a cycle with inputs `c`. -/
def holdIn (h : Hold) (q : List Frame) (c : CycleInputs) : State :=
  { State.reset with st := .hold, h := some h, q := q, script := [c] }

/-- A queue of `n` frames with A at its head. -/
def queueOf : Nat → List Frame
  | 0 => []
  | n + 1 => frameA :: List.replicate n frameB

/-- What a cycle leaves of the spec's own state. -/
def post (s : State) : Option (RelaySt × Option Hold × List Frame) := (nextOf (step s)).map fun t => (t.st, t.h, t.q)
/-- What a cycle adds to the observation (R13). -/
def seen (s : State) : Option (List Line × List Frame) := (nextOf (step s)).map fun t => (t.lines, t.dropped)
/-- The handshake outputs and the length of a cycle. -/
def pinsOf (s : State) : Option (Bool × Bool × Nat) :=
  (nextOf (step s)).map fun t => (t.out.deqReady, t.out.wrValid, t.out.wrLen.toNat)

def quiet : CycleInputs := quietInputs
def resetRow : CycleInputs := { quiet with rst := true }
def readyRow : CycleInputs := { quiet with wrReady := true }
def offerRow (f : Frame) : CycleInputs := { quiet with enq := some f }

/-! ### Well-formedness: an ill-formed term for each check -/

theorem test_wf_refuses_dlc_9 : Frame.wf ⟨0, false, false, 9, zeros⟩ = false := by decide
theorem test_wf_refuses_std_id_12_bits : Frame.wf ⟨0x800, false, false, 0, zeros⟩ = false := by decide
theorem test_wf_refuses_ext_id_30_bits : Frame.wf ⟨0x20000000, true, false, 0, zeros⟩ = false := by decide
theorem test_wf_accepts_bounds :
    Frame.wf ⟨0x7FF, false, false, 8, zeros⟩ = true ∧ Frame.wf ⟨0x1FFFFFFF, true, true, 8, zeros⟩ = true := by decide
theorem test_demo_refuses_each :
    Frame.isDemo ⟨0x800, false, false, 0, zeros⟩ = false ∧ Frame.isDemo ⟨0, false, false, 9, zeros⟩ = false ∧
    Frame.isDemo ⟨0, true, false, 0, zeros⟩ = false ∧ Frame.isDemo ⟨0, false, true, 0, zeros⟩ = false := by decide

/-! ### Decoding: every constructor, from a word written out from its pattern (R53, R63) -/

theorem test_decode_encStdData : decode (.sel 0b00) = .encStdData := by decide
theorem test_decode_encStdRemote : decode (.sel 0b01) = .encStdRemote := by decide
theorem test_decode_encExtData : decode (.sel 0b10) = .encExtData := by decide
theorem test_decode_encExtRemote : decode (.sel 0b11) = .encExtRemote := by decide
theorem test_decode_rlyReset : decode (.rsel 0b1101) = .rlyReset true false true := by decide
theorem test_decode_rlyWait : decode (.rsel 0b0000) = .rlyWait false ∧ decode (.rsel 0b0001) = .rlyWait true := by decide
theorem test_decode_rlyAccept : decode (.rsel 0b0010) = .rlyAccept false ∧ decode (.rsel 0b0011) = .rlyAccept true := by
  decide
theorem test_decode_rlyStall : decode (.rsel 0b0100) = .rlyStall false ∧ decode (.rsel 0b0110) = .rlyStall true := by decide
theorem test_decode_rlyEmit : decode (.rsel 0b0101) = .rlyEmit false ∧ decode (.rsel 0b0111) = .rlyEmit true := by decide
theorem test_decode_qReset : decode (.qsel 0b1001) = .qReset false false true := by decide
theorem test_decode_qHold : decode (.qsel 0b0000) = .qHold false ∧ decode (.qsel 0b0001) = .qHold true := by decide
theorem test_decode_qPop : decode (.qsel 0b0010) = .qPop false ∧ decode (.qsel 0b0011) = .qPop true := by decide
theorem test_decode_qPush : decode (.qsel 0b0100) = .qPush := by decide
theorem test_decode_qDrop : decode (.qsel 0b0101) = .qDrop := by decide
theorem test_decode_qPushPop : decode (.qsel 0b0110) = .qPushPop := by decide
theorem test_decode_qDropPop : decode (.qsel 0b0111) = .qDropPop := by decide

/-- A number wider than its selector is refused by name. -/
theorem test_decodeWord_refuses_wide :
    (match decodeWord .frameShape 4 with | .error e => decide (e = .bitAboveSelector) | .ok _ => false) = true ∧
    (match decodeWord .relayStep 16 with | .error e => decide (e = .bitAboveSelector) | .ok _ => false) = true ∧
    (match decodeWord .queueStep 16 with | .error e => decide (e = .bitAboveSelector) | .ok _ => false) = true := by decide

/-- The host's table words (log 6), and none above 15. -/
theorem test_decodeTableWord :
    decodeTableWord 8 0b01 = some .encStdRemote ∧ decodeTableWord 8 0b1000 = some (.rlyReset false false false) ∧
    decodeTableWord 8 0b0101 = some (.rlyEmit false) ∧ decodeTableWord 8 0b0111 = some .qDropPop ∧
    decodeTableWord 8 16 = none := by decide

/-- The very next step runs the table word's instruction (log 15): its selector is presented. -/
theorem test_withFetchWord :
    (State.reset.withFetchWord 8 0b11).encInstr = some .encExtRemote ∧
    (State.reset.withFetchWord 8 0b0101).relayInstr = .rlyEmit false ∧
    (State.reset.withFetchWord 8 0b0111).queueInstr = some .qDropPop ∧
    (nextOf (step (State.reset.withFetchWord 8 0b0111))).isSome = true := by decide

/-! ### The packed frame bus: the constants of programs P1 to P3 -/

theorem test_pack_P1 : frameS1.pack = 0x000000000000336AC0800000123 := by decide
theorem test_pack_P2 : frameA.pack = 0x0000000000000000001001ABCDE ∧ frameB.pack = 0x0000000000000000016000007FF := by decide
theorem test_pack_P3 : Frame.pack ⟨22, false, false, 1, #v[22, 0, 0, 0, 0, 0, 0, 0]⟩ = 0x000000000000000580400000016 := by
  decide
theorem test_unpack_P1 : Frame.unpack 0x000000000000336AC0800000123 = frameS1 := by decide

/-! ### ENC: scenarios S1 to S5 and derived vectors E1 to E20 -/

theorem test_S1 : (plain frameS1).line = [0x74, 0x31, 0x32, 0x33, 0x32, 0x41, 0x42, 0x43, 0x44, 0x0D] := by decide
theorem test_S2 : (plain frameA).line = [0x54, 0x30, 0x30, 0x31, 0x41, 0x42, 0x43, 0x44, 0x45, 0x30, 0x0D] := by decide
theorem test_S3 : (plain frameB).line = [0x72, 0x37, 0x46, 0x46, 0x35, 0x0D] := by decide
theorem test_S4 : Hold.line ⟨frameS1, 12345, true, false⟩ =
    [0x74, 0x31, 0x32, 0x33, 0x32, 0x41, 0x42, 0x43, 0x44, 0x33, 0x30, 0x33, 0x39, 0x0D] := by decide
theorem test_E3 : (plain ⟨0xFFFFFFFF, false, false, 0, zeros⟩).line = [0x74, 0x37, 0x46, 0x46, 0x30, 0x0D] := by decide
theorem test_E7 : (plain ⟨0x100, false, false, 0xFF, oneTo8⟩).line =
    [0x74, 0x31, 0x30, 0x30, 0x46, 0x30, 0x31, 0x30, 0x32, 0x30, 0x33, 0x30, 0x34, 0x30, 0x35, 0x30, 0x36, 0x30, 0x37,
     0x30, 0x38, 0x0D] := by decide
theorem test_E11 : Hold.line ⟨⟨0x123, false, true, 0, zeros⟩, 10, true, true⟩ =
    [0x72, 0x31, 0x32, 0x33, 0x30, 0x30, 0x30, 0x30, 0x41, 0x0D, 0x0A] := by decide
theorem test_E14 : (plain ⟨0xE0000000, true, false, 0, zeros⟩).line =
    [0x54, 0x30, 0x30, 0x30, 0x30, 0x30, 0x30, 0x30, 0x30, 0x30, 0x0D] := by decide
theorem test_E15 : (plain ⟨0x12345678, true, true, 8, counting⟩).line =
    [0x52, 0x31, 0x32, 0x33, 0x34, 0x35, 0x36, 0x37, 0x38, 0x38, 0x0D] := by decide
theorem test_E16 : Hold.line ⟨⟨0, true, false, 8, counting⟩, 59999, true, true⟩ =
    [0x54, 0x30, 0x30, 0x30, 0x30, 0x30, 0x30, 0x30, 0x30, 0x38, 0x30, 0x30, 0x31, 0x31, 0x32, 0x32, 0x33, 0x33, 0x34,
     0x34, 0x35, 0x35, 0x36, 0x36, 0x37, 0x37, 0x45, 0x41, 0x35, 0x46, 0x0D, 0x0A] := by decide
theorem test_E18 : Hold.line ⟨⟨1, true, true, 0xF, zeros⟩, 65535, true, true⟩ =
    [0x52, 0x30, 0x30, 0x30, 0x30, 0x30, 0x30, 0x30, 0x31, 0x46, 0x31, 0x35, 0x39, 0x46, 0x0D, 0x0A] := by decide
/-- The TS reduction vectors of section 2. -/
theorem test_TS : tsField true 10 = [0x30, 0x30, 0x30, 0x41] ∧ tsField true 60000 = [0x30, 0x30, 0x30, 0x30] ∧
    tsField true 120001 = [0x30, 0x30, 0x30, 0x31] ∧ tsField true 4294967295 = [0x42, 0x38, 0x42, 0x46] := by decide

/-- Running a shape on the wrong selector still renders that shape: `ENC_r` of S1's frame shows no data (R66). -/
theorem test_exec_encStdRemote :
    (nextOf (exec .encStdRemote (holdIn (plain frameS1) [] quiet))).map (fun t => t.out.written) =
      some [0x72, 0x31, 0x32, 0x33, 0x32, 0x0D] := by decide
/-- Reading `h` without a value, in a cycle without reset, faults (R18). -/
theorem test_exec_unwritten : faultOf (exec .encExtData (idleIn [] quiet)) = some .unwrittenHold := by decide
/-- One reset cycle from R115's arbitrary start: `HOLD` with no record, and more than 20 frames in `q` (R114). -/
theorem test_reset_from_arbitrary_start :
    ∃ t, step { idleIn (queueOf 25) resetRow with st := .hold } = .next t ∧ t.st = .idle ∧ t.h = none ∧ t.q = [] ∧ t.lines = [] :=
  ⟨_, step_reset rfl, by decide⟩

/-! ### Relay and queue steps: V1 to V12 -/

theorem test_V1 : post (holdIn (plain frameA) [frameB] { resetRow with wrReady := true, enq := some frameX }) =
      some (.idle, none, []) ∧
    seen (holdIn (plain frameA) [frameB] { resetRow with wrReady := true, enq := some frameX }) = some ([], []) := by decide
theorem test_V2 : post (idleIn [] readyRow) = some (.idle, none, []) ∧ pinsOf (idleIn [] readyRow) = some (true, false, 0) := by
  decide
theorem test_V3 : post (idleIn [] (offerRow frameA)) = some (.idle, none, [frameA]) := by decide
theorem test_V4 : post (idleIn [frameA] { quiet with nowMs := 7, cfgTsEn := true }) = some (.hold, some heldA, []) := by decide
theorem test_V5 : post (holdIn heldA [] quiet) = some (.hold, some heldA, []) ∧
    pinsOf (holdIn heldA [] quiet) = some (false, true, 15) := by decide
theorem test_V6 : seen (holdIn heldA [] readyRow) =
    some ([[0x54, 0x30, 0x30, 0x31, 0x41, 0x42, 0x43, 0x44, 0x45, 0x30, 0x30, 0x30, 0x30, 0x37, 0x0D]], []) := by decide
theorem test_V7 : post (idleIn [frameA] (offerRow frameB)) = some (.hold, some (plain frameA), [frameB]) := by decide
theorem test_V8 : post (holdIn heldA (queueOf 20) (offerRow frameX)) = some (.hold, some heldA, queueOf 20) ∧
    seen (holdIn heldA (queueOf 20) (offerRow frameX)) = some ([], [frameX]) := by decide
theorem test_V9 : post (idleIn (queueOf 20) (offerRow frameX)) =
      some (.hold, some (plain frameA), List.replicate 19 frameB) ∧
    seen (idleIn (queueOf 20) (offerRow frameX)) = some ([], [frameX]) := by decide
theorem test_V10 : post (holdIn heldA [frameA] (offerRow frameB)) = some (.hold, some heldA, [frameA, frameB]) := by decide
theorem test_V11 : post (holdIn heldA [] { readyRow with enq := some frameA }) = some (.idle, some heldA, [frameA]) := by decide
theorem test_V12 : (holdIn heldA [frameA] quiet).rsel = 0b0110 ∧
    post (holdIn heldA [frameA] quiet) = some (.hold, some heldA, [frameA]) := by decide
/-- P4, cycle 3: the line is on the port in a reset cycle, but `wr_valid = 0`. -/
theorem test_P4_cycle3 :
    pinsOf (holdIn (plain ⟨0x10, false, false, 0, zeros⟩) [] resetRow) = some (false, false, 6) := by decide
/-- Open-interface mode (R104): an owed offer that is withdrawn stops the run; a reset excuses it. -/
theorem test_open_interface :
    faultOf (step { idleIn [] quiet with qside := .opened (some frameA), cycle := 3 }) = some (.envProtocol 3) ∧
    (nextOf (step { idleIn [] resetRow with qside := .opened (some frameA) })).isSome = true := by decide

/-! ### The reader of lines -/

theorem test_readLine_refuses :
    readLine [] = none ∧ readLine [0x78, 0x30, 0x30, 0x30, 0x30, 0x0D] = none ∧
    readLine [0x74, 0x30, 0x30, 0x61, 0x30, 0x0D] = none ∧ readLine [0x74, 0x30, 0x30, 0x30, 0x31, 0x0D] = none := by decide

/-! ### Witnesses: the hypotheses of each statement can be met, each clause at a boundary -/

theorem witness_DecodeAndEncodeAreInverse : Instr.wf (.rlyReset true true true) = true := by decide
theorem witness_StepSelectorsPickTheSteps : State.reset.qside = .closed := by decide
theorem witness_PackedFrameBusLayout : ∃ j, j < 8 ∧ j = 7 := by decide
theorem witness_HexNumbersAreMostSignificantFirst : (0xFFF : Nat) < 16 ^ 3 ∧ 2 < 3 := by decide

/-- Two standard data records that differ in the id bits 31..11 and in a byte beyond `n = 2` (R65). -/
theorem witness_StdDataShapeDrivesItsLine :
    ∃ (s : State) (a b : Hold) (d e : Byte), s.h = some a ∧ a ≠ b ∧ a.id &&& 0x7FF = b.id &&& 0x7FF ∧ a.dlc = b.dlc ∧
      a.ts = b.ts ∧ a.tsEn = b.tsEn ∧ a.lfEn = b.lfEn ∧
      (∀ j, (hj : j < 8) → j < rendered a.dlc → a.data[j] = b.data[j]) ∧
      (9 ≤ d.toNat ∧ d.toNat ≤ 15) ∧ (9 ≤ e.toNat ∧ e.toNat ≤ 15) ∧ d ≠ e ∧
      a.id = 0x123 ∧ a.dlc = 2 ∧ a.data[0] = 0xAB ∧ a.data[1] = 0xCD ∧ a.tsEn = false ∧ a.lfEn = false :=
  ⟨holdIn (plain frameS1) [] quiet, plain frameS1,
    plain ⟨0xFFFFF923, false, false, 2, #v[0xAB, 0xCD, 9, 0, 0, 0, 0, 0]⟩, 9, 15, by decide⟩
theorem witness_StdRemoteShapeDrivesItsLine :
    ∃ (s : State) (h : Hold), s.h = some h ∧ h.id = 0x7FF ∧ h.dlc = 5 ∧ h.tsEn = false ∧ h.lfEn = false :=
  ⟨holdIn (plain frameB) [] quiet, plain frameB, by decide⟩
theorem witness_ExtDataShapeDrivesItsLine :
    ∃ (s : State) (a b : Hold), s.h = some a ∧ a ≠ b ∧ a.id &&& 0x1FFFFFFF = b.id &&& 0x1FFFFFFF ∧ a.dlc = b.dlc ∧
      a.ts = b.ts ∧ a.tsEn = b.tsEn ∧ a.lfEn = b.lfEn ∧
      (∀ j, (hj : j < 8) → j < rendered a.dlc → a.data[j] = b.data[j]) ∧
      a.id = 0x1ABCDE ∧ a.dlc = 0 ∧ a.tsEn = false ∧ a.lfEn = false :=
  ⟨holdIn (plain frameA) [] quiet, plain frameA, plain ⟨0xE01ABCDE, true, false, 0, oneTo8⟩, by decide⟩
theorem witness_ExtRemoteShapeDrivesItsLine :
    ∃ (s : State) (a b : Hold), s.h = some a ∧ a ≠ b ∧ a.id &&& 0x1FFFFFFF = b.id &&& 0x1FFFFFFF ∧ a.dlc = b.dlc ∧
      a.ts = b.ts ∧ a.tsEn = b.tsEn ∧ a.lfEn = b.lfEn ∧ a.id = 0x12345678 ∧ a.dlc = 8 ∧ a.tsEn = false ∧ a.lfEn = false :=
  ⟨holdIn (plain ⟨0x12345678, true, true, 8, counting⟩) [] quiet, plain ⟨0x12345678, true, true, 8, counting⟩,
    plain ⟨0xF2345678, true, true, 8, zeros⟩, by decide⟩
/-- Each of the four shapes can be held. -/
theorem witness_SelectedShapeDrivesEncode :
    ∀ ext rtr, ∃ (s : State) (h : Hold), s.h = some h ∧ h.ext = ext ∧ h.rtr = rtr := fun ext rtr =>
  ⟨holdIn (plain ⟨0, ext, rtr, 9, oneTo8⟩) [] quiet, plain ⟨0, ext, rtr, 9, oneTo8⟩, rfl, rfl, rfl⟩
theorem witness_LineIsSevenFieldsInOrder : (plain frameB).rtr = true := by decide
/-- Every position clause has a byte: the longest line E16, and the shortest standard line. -/
theorem witness_LineBytesStayInTheirAlphabet :
    ∃ h g : Hold, h.ext = true ∧ h.tsEn = true ∧ h.line[0]? = some 0x54 ∧ h.line[1]? = some 0x30 ∧
      h.line[26]? = some 0x45 ∧ h.line[29]? = some 0x46 ∧ h.line[30]? = some 0x0D ∧ h.line[31]? = some 0x0A ∧
      dataBytes h = 8 ∧ g.ext = false ∧ g.line[1]? = some 0x37 ∧ g.line[5]? = some 0x0D ∧ dataBytes g = 0 :=
  ⟨⟨⟨0, true, false, 8, counting⟩, 59999, true, true⟩, plain frameB, by decide⟩
theorem witness_OneCarriageReturnThenOptionalLineFeed :
    (plain frameB).lfEn = false ∧ Hold.lfEn ⟨frameB, 0, true, true⟩ = true := by decide
theorem witness_WellFormedFramesAreRenderedExactly :
    (plain frameS1).toFrame.wf = true ∧ (plain frameB).toFrame.wf = true ∧
    (plain ⟨0x1FFFFFFF, true, false, 8, counting⟩).toFrame.wf = true := by decide
/-- Records that differ in every bit a line ignores. -/
theorem witness_EncodeIgnoresUnreadInputs :
    ∃ a b c d : Hold, SameLineInputs a b ∧ a ≠ b ∧ SameLineInputs c d ∧ c ≠ d ∧ a.ext = false ∧ c.ext = true :=
  ⟨⟨⟨0x123, false, false, 2, counting⟩, 5, false, true⟩, ⟨⟨0xFFFFF923, false, false, 0xF2, #v[0, 0x11, 0, 0, 0, 0, 0, 0]⟩, 6, false, true⟩,
    ⟨⟨0x1FFFFFFF, true, true, 0x0F, counting⟩, 5, true, false⟩, ⟨⟨0xFFFFFFFF, true, true, 0x1F, zeros⟩, 5, true, false⟩, by decide⟩
theorem witness_DocumentPropertiesHold :
    ∃ h g k : Hold, h.ext = false ∧ h.rtr = true ∧ h.lfEn = false ∧
      g.ext = true ∧ g.id.toNat < 2 ^ 29 ∧ g.rtr = false ∧ g.dlc.toNat ≤ 8 ∧ g.lfEn = true ∧
      k.rtr = false ∧ k.dlc.toNat ≤ 8 ∧ k.ext = false :=
  ⟨plain frameB, ⟨⟨0x1FFFFFFF, true, false, 8, counting⟩, 0, false, true⟩, plain frameS1, by decide⟩
theorem witness_TimestampSequenceJumpsAtTheWrap : (0xFFFFFFFE : Word) ≠ 0xFFFFFFFF ∧ (59999 : Word) ≠ 0xFFFFFFFF := by decide
theorem witness_DemoFramesAreWellFormed :
    (plain ⟨0x7FF, false, false, 8, counting⟩).toFrame.isDemo = true ∧
    (plain ⟨0, false, false, 0, zeros⟩).toFrame.isDemo = true := by decide

theorem witness_RelayResetStep :
    ∃ s u : State, (s.inp.rst = true ∧ s.st = .hold ∧ s.h = some heldA) ∧ u.inp.rst = true ∧ u.st = .hold ∧ u.h = none :=
  ⟨holdIn heldA [frameB] resetRow, { idleIn [] resetRow with st := .hold }, by decide⟩
theorem witness_RelayWaitStep :
    ∃ s u : State, (s.st = .idle ∧ s.deqValid = false ∧ s.inp.rst = false ∧ s.dutyBroken = false ∧ s.qside = .closed) ∧
      u.st = .idle ∧ u.deqValid = false ∧ u.inp.rst = false ∧ u.dutyBroken = false ∧ u.qside = .opened none :=
  ⟨idleIn [] readyRow, { idleIn [] quiet with qside := .opened none }, by decide⟩
theorem witness_RelayAcceptStep :
    ∃ (s u : State) (f : Frame) (rest : List Frame), s.deqValid = true ∧
      (s.qside = .closed ∧ s.st = .idle ∧ s.q = f :: rest ∧ s.inp.rst = false) ∧ s.q.length = 20 ∧
      u.qside = .closed ∧ u.st = .idle ∧ u.q = [frameX] ∧ u.inp.rst = false :=
  ⟨idleIn (queueOf 20) quiet, idleIn [frameX] readyRow, frameA, List.replicate 19 frameB, by decide⟩
theorem witness_RelayStallStep :
    ∃ (s : State) (h : Hold), s.st = .hold ∧ s.h = some h ∧ s.inp.wrReady = false ∧ s.inp.rst = false ∧
      s.dutyBroken = false ∧ s.deqValid = true := ⟨holdIn heldA [frameA] quiet, heldA, by decide⟩
theorem witness_RelayEmitStep :
    ∃ (s : State) (h : Hold), s.st = .hold ∧ s.h = some h ∧ s.inp.wrReady = true ∧ s.inp.rst = false ∧
      s.dutyBroken = false := ⟨holdIn heldA [frameA] readyRow, heldA, by decide⟩

theorem witness_QueueResetStep : ∃ s : State, s.qside = .closed ∧ s.inp.rst = true ∧ s.q.length = 20 :=
  ⟨idleIn (queueOf 20) { resetRow with enq := some frameX }, by decide⟩
theorem witness_QueueHoldStep :
    ∃ s u : State, (s.Inv ∧ s.qside = .closed ∧ s.inp.rst = false ∧ s.inp.enq = none ∧ s.pop = false ∧ s.q = []) ∧
      u.Inv ∧ u.qside = .closed ∧ u.inp.rst = false ∧ u.inp.enq = none ∧ u.pop = false ∧ u.q.length = 20 :=
  ⟨idleIn [] quiet, holdIn heldA (queueOf 20) quiet, by decide⟩
theorem witness_QueuePopStep :
    ∃ s u : State, (s.qside = .closed ∧ s.inp.rst = false ∧ s.inp.enq = none ∧ s.pop = true ∧ s.q.length = 1) ∧
      u.qside = .closed ∧ u.inp.rst = false ∧ u.inp.enq = none ∧ u.pop = true ∧ u.q.length = 20 :=
  ⟨idleIn [frameA] quiet, idleIn (queueOf 20) quiet, by decide⟩
theorem witness_QueuePushStep :
    ∃ s u : State, (s.Inv ∧ s.qside = .closed ∧ s.inp.rst = false ∧ s.inp.enq = some frameX ∧ s.pop = false ∧ s.q = []) ∧
      u.Inv ∧ u.qside = .closed ∧ u.inp.rst = false ∧ u.inp.enq = some frameX ∧ u.pop = false ∧ u.q.length = 19 :=
  ⟨idleIn [] (offerRow frameX), holdIn heldA (queueOf 19) (offerRow frameX), by decide⟩
theorem witness_QueueDropStep :
    ∃ (s : State) (f : Frame) (c : CycleInputs) (cs : List CycleInputs), s.Inv ∧ s.qside = .closed ∧ s.script = c :: cs ∧
      c.rst = false ∧ c.enq = some f ∧ s.inp.enq = some f ∧ s.inp.rst = false ∧ s.pop = false ∧ s.q.length = 20 :=
  ⟨holdIn heldA (queueOf 20) (offerRow frameX), frameX, offerRow frameX, [], by decide⟩
theorem witness_QueuePushPopStep :
    ∃ s u : State, (s.qside = .closed ∧ s.inp.rst = false ∧ s.inp.enq = some frameX ∧ s.pop = true ∧ s.q.length = 1) ∧
      u.qside = .closed ∧ u.inp.rst = false ∧ u.inp.enq = some frameX ∧ u.pop = true ∧ u.q.length = 19 :=
  ⟨idleIn [frameA] (offerRow frameX), idleIn (queueOf 19) (offerRow frameX), by decide⟩
theorem witness_QueueDropPopStep :
    ∃ s : State, s.qside = .closed ∧ s.inp.rst = false ∧ s.inp.enq = some frameX ∧ s.pop = true ∧ s.q.length = 20 :=
  ⟨idleIn (queueOf 20) (offerRow frameX), by decide⟩

theorem witness_StepRunsTheDecodedInstructions :
    ∃ (s u v : State) (h : Hold), s.qside = .closed ∧ s.st = .idle ∧ u.qside = .closed ∧ u.st = .hold ∧ u.h = some h ∧
      v.qside = .closed ∧ v.st = .hold ∧ v.h = none ∧ v.inp.rst = true :=
  ⟨idleIn [frameA] (offerRow frameB), holdIn heldA [frameA] readyRow, { idleIn [] resetRow with st := .hold }, heldA, by decide⟩
/-- Cycles that answer a next state: WAIT, ACCEPT, a held line offered, and a held line in a reset cycle. -/
theorem witness_OutputsOfACycle :
    (nextOf (step (idleIn [] quiet))).map (fun t => t.out.deqReady) = some true ∧
    (nextOf (step (idleIn [frameA] quiet))).map (fun t => t.out.deqReady) = some true ∧
    (idleIn [frameA] quiet).deqValid = true ∧ (idleIn [] quiet).deqValid = false ∧
    (nextOf (step (holdIn heldA [] quiet))).map (fun t => t.out.wrValid) = some true ∧
    (nextOf (step (holdIn heldA [] resetRow))).map (fun t => t.out.wrValid) = some false := by decide
theorem witness_EveryCycleKeepsTheInvariant :
    (holdIn heldA (queueOf 20) (offerRow frameX)).q.length ≤ 20 ∧ (holdIn heldA (queueOf 20) (offerRow frameX)).h = some heldA ∧
    (nextOf (step (holdIn heldA (queueOf 20) (offerRow frameX)))).isSome = true ∧
    (nextOf (step (idleIn (queueOf 20) (offerRow frameX)))).isSome = true := by decide
theorem witness_ResetValues :
    quiet.rst = false ∧ (holdIn heldA (queueOf 20) resetRow).qside = .closed ∧
    (holdIn heldA (queueOf 20) resetRow).inp.rst = true ∧
    (nextOf (step (holdIn heldA (queueOf 20) resetRow))).isSome = true := by decide
theorem witness_NoCycleEverFails :
    ∃ s u : State, (s.Inv ∧ s.qside = .closed) ∧ u.Inv ∧ u.qside = .closed ∧ u.st = .hold ∧ u.q.length = 20 :=
  ⟨State.reset, holdIn heldA (queueOf 20) quiet, by decide⟩
theorem witness_OnlyUnwrittenHoldStopsAnInstruction :
    (idleIn [] quiet).h = none ∧ (idleIn [] quiet).inp.rst = false ∧ (holdIn heldA [] quiet).h ≠ none ∧
    (idleIn [] resetRow).h = none ∧ (idleIn [] resetRow).inp.rst ≠ false ∧ Instr.qPush ≠ .encExtRemote := by decide
theorem witness_QueueTakesOnePopThenOnePush :
    ∃ s u v : State, (s.Inv ∧ s.qside = .closed ∧ s.inp.rst = false ∧ s.st = .idle ∧ s.q.length = 20) ∧
      (u.Inv ∧ u.qside = .closed ∧ u.inp.rst = false ∧ u.st = .idle ∧ u.q = []) ∧
      v.Inv ∧ v.qside = .closed ∧ v.inp.rst = false ∧ v.st = .hold ∧ v.q.length = 19 :=
  ⟨idleIn (queueOf 20) (offerRow frameX), idleIn [] (offerRow frameX), holdIn heldA (queueOf 19) (offerRow frameX), by decide⟩
theorem witness_QueueHeadStaysOffered :
    ∃ s : State, s.qside = .closed ∧ s.q = frameA :: [frameB] ∧ (nextOf (step s)).isSome = true ∧ s.deqValid = true ∧
      s.pop = false ∧ s.inp.rst = false := ⟨holdIn heldA [frameA, frameB] (offerRow frameX), by decide⟩
theorem witness_SimultaneousEventsAreOrdered :
    ∃ s u v : State, (s.qside = .closed ∧ s.inp.rst = true ∧ s.st = .hold) ∧
      (u.qside = .closed ∧ u.inp.rst = false ∧ u.pop = true ∧ u.inp.enq = some frameX ∧ u.q.length = 19) ∧
      v.qside = .closed ∧ v.inp.rst = false ∧ v.pop = true ∧ v.inp.enq = some frameX ∧ v.q.length = 20 :=
  ⟨holdIn heldA (queueOf 20) { resetRow with wrReady := true, enq := some frameX }, idleIn (queueOf 19) (offerRow frameX),
    idleIn (queueOf 20) (offerRow frameX), by decide⟩
theorem witness_OneResetCycleSuffices :
    ∃ s u : State, (s.qside = .closed ∧ s.inp.rst = true ∧ s.q.length = 20 ∧ ∀ k, k < 1 + 1 → (s.inputAt k).rst = true) ∧
      u.qside = .closed ∧ u.st = .hold ∧ u.h = none ∧ u.q.length = 25 ∧ ∀ k, k < 0 + 1 → (u.inputAt k).rst = true :=
  ⟨{ holdIn heldA (queueOf 20) resetRow with script := [resetRow, resetRow] },
    { idleIn (queueOf 25) resetRow with st := .hold }, by decide⟩
/-- ACCEPT, and the cycles that are none: WAIT, a held line, and a reset cycle with a frame offered. -/
theorem witness_OptionsAndTimeAreReadOnlyInAccept :
    ∃ s u v w : State, (s.st = .idle ∧ s.deqValid = true ∧ s.inp.rst = false ∧ s.dutyBroken = false) ∧
      (u.script = quiet :: [] ∧ ∀ w, u.relayInstr ≠ .rlyAccept w) ∧
      (v.script = readyRow :: [] ∧ ∀ w, v.relayInstr ≠ .rlyAccept w) ∧
      w.script = resetRow :: [] ∧ ∀ b, w.relayInstr ≠ .rlyAccept b :=
  ⟨idleIn [frameA] quiet, idleIn [] quiet, holdIn heldA [frameA] readyRow, idleIn [frameA] resetRow, by decide⟩
theorem witness_IdleCyclesIgnoreWrReady :
    ∃ s : State, s.st = .idle ∧ s.script = quiet :: [] := ⟨idleIn [frameA] quiet, by decide⟩

theorem witness_FramesAreOwnedByExactlyOne :
    ∃ s u : State, (s.Inv ∧ s.qside = .closed ∧ s.inp.rst = false ∧ s.st = .hold ∧ s.q.length = 20) ∧
      u.Inv ∧ u.qside = .closed ∧ u.inp.rst = true := ⟨holdIn heldA (queueOf 20) readyRow, holdIn heldA [frameA] resetRow, by decide⟩
/-- Program P2 from its second cycle: two frames offered, both written. -/
theorem witness_ExactlyOnceAndInOrder :
    ∃ s : State, s.Inv ∧ s.qside = .closed ∧ NoReset 6 s ∧ (collect State.emittedNow 6 s).length = 2 :=
  ⟨{ State.reset with script := [offerRow frameA, { offerRow frameB with cfgLfEn := true }, quiet, readyRow,
      { quiet with nowMs := 500, cfgTsEn := true }, readyRow] }, by decide⟩
theorem witness_AtMostTwentyOneFramesHeld : ∃ s : State, s.Inv ∧ s.st = .hold ∧ s.q.length = 20 :=
  ⟨holdIn heldA (queueOf 20) quiet, by decide⟩
/-- P3's last stalled cycles: one more frame fits, and the next is dropped. -/
theorem witness_StalledSinkFillsTheQueue :
    ∃ s : State, s.Inv ∧ s.qside = .closed ∧ s.st = .hold ∧ SinkHolds false 2 s ∧ s.q.length = 19 ∧
      offers 2 s = [frameA, frameX] :=
  ⟨{ holdIn heldA (queueOf 19) quiet with script := [offerRow frameA, offerRow frameX] }, by decide⟩
theorem witness_OfferedLineIsStableUntilTaken :
    ∃ (s : State) (h : Hold), s.Inv ∧ s.qside = .closed ∧ s.st = .hold ∧ s.h = some h ∧ SinkHolds false 1 s ∧
      (s.inputAt 1).rst = false ∧ (s.inputAt 1).wrReady = true ∧ (nextOf (runCycles 1 s)).isSome = true :=
  ⟨{ holdIn heldA [] quiet with script := [quiet, readyRow] }, heldA, by decide⟩
theorem witness_QueuedFramesAreWrittenInTwoCyclesEach :
    ∃ s : State, s.Inv ∧ s.qside = .closed ∧ s.st = .idle ∧ 1 ≤ s.q.length ∧ SinkHolds true (2 * 1) s :=
  ⟨{ idleIn [frameA] quiet with script := [readyRow, readyRow] }, by decide⟩
theorem witness_PushAcceptEmitTakeThreeCycles :
    ∃ s : State, s.qside = .closed ∧ s.st = .idle ∧ s.q = [] ∧ NoReset 3 s ∧ s.inp.enq = some frameS1 ∧
      (s.inputAt 2).wrReady = true :=
  ⟨{ State.reset with script := [offerRow frameS1, { quiet with nowMs := 12345, cfgTsEn := true }, readyRow] }, by decide⟩

/-- The fault's conditions are met when an owed offer is missing and when it is another frame; the other clauses have a next state. -/
theorem witness_BrokenOffersAreFaults :
    ∃ s u v w : State, (s.inp.rst = false ∧ s.qside = .opened (some frameA) ∧ s.inp.deqOffer = none) ∧
      (u.inp.rst = false ∧ u.qside = .opened (some frameA) ∧ u.inp.deqOffer = some frameB) ∧
      (v.qside = .opened none ∧ v.inp.rst = false ∧ v.st = .hold ∧ (nextOf (step v)).isSome = true) ∧
      w.qside = .opened (some frameA) ∧ w.inp.rst = true ∧ (nextOf (step w)).isSome = true :=
  ⟨{ idleIn [] quiet with qside := .opened (some frameA) },
    { idleIn [] { quiet with deqOffer := some frameB } with qside := .opened (some frameA) },
    { holdIn heldA [] { quiet with deqOffer := some frameA } with qside := .opened none },
    { idleIn [] resetRow with qside := .opened (some frameA) }, by decide⟩
theorem witness_OpenInterfaceCoversTheModelledQueue :
    ∃ (s : State) (owed : Option Frame), s.Inv ∧ s.qside = .closed ∧ owed = s.q.head? ∧ owed = some frameA :=
  ⟨holdIn heldA (queueOf 20) (offerRow frameX), some frameA, by decide⟩
theorem witness_PresentedSelectorsAreRun :
    State.reset.q.length ≤ 20 ∧ ¬ ((0b0111 : BitVec 4)[3] = true ∧ (0b0111 : BitVec 4)[1] = true) ∧
    ¬ ((0b1101 : BitVec 4)[3] = true ∧ (0b1101 : BitVec 4)[1] = true) := by decide

/-! An infinite run with a SINK that is always ready: A is accepted, its line is written, and nothing is left to do. -/

def after (s : State) : State := (nextOf (step (s.withRow readyRow))).getD s
def alwaysReady : Nat → CycleInputs := fun _ => readyRow
def readyStart : State := idleIn [frameA] quiet
def idleAt (k : Nat) : State :=
  { idleIn [] quiet with
    h := some (plain frameA), out := { Outputs.zero with deqReady := true }, lines := [(plain frameA).line], script := [], cycle := k }
def readyRun : Nat → State
  | 0 => readyStart
  | 1 => after readyStart
  | 2 => after (after readyStart)
  | k + 3 => idleAt (k + 3)

theorem readyRun_isRun : IsRun alwaysReady readyRun
  | 0 => rfl
  | 1 => rfl
  | 2 => rfl
  | k + 3 => step_closed (s := (idleAt (k + 3)).withRow readyRow) ⟨Nat.zero_le 20, fun _ => rfl⟩ rfl

theorem readyRun_fair : SinkFair alwaysReady readyRun := fun k _ _ => ⟨k, Nat.le_refl k, rfl⟩

/-- The run whose environment is the inputs its first state holds: A's script row, then the free inputs. -/
def scriptEnv : Nat → CycleInputs := (idleIn [frameA] quiet).inputAt
def scriptRun : Nat → State
  | 0 => idleIn [frameA] quiet
  | k + 1 => ((scriptRun k).withRow (scriptEnv k)).cycled

theorem scriptRun_good : ∀ k, (scriptRun k).qside = .closed ∧ ((scriptRun k).st = .hold → (scriptRun k).h.isSome = true)
  | 0 => by decide
  | k + 1 => by
    obtain ⟨hq, hh⟩ := scriptRun_good k
    exact ⟨closed_cycled (s := (scriptRun k).withRow (scriptEnv k)) hq,
      held_cycled (s := (scriptRun k).withRow (scriptEnv k)) hh⟩

theorem scriptRun_isRun : IsRun scriptEnv scriptRun := fun k =>
  step_eq_cycled ((scriptRun k).withRow (scriptEnv k)) (fun h _ => (scriptRun_good k).2 h)
    (dutyBroken_closed (s := (scriptRun k).withRow (scriptEnv k)) (scriptRun_good k).1)

theorem witness_EveryEnvironmentHasOneRun :
    (∃ s : State, s.Inv ∧ s.qside = .closed) ∧
    ∃ (env : Nat → CycleInputs) (r : Nat → State), IsRun env r ∧ ∀ k, env k = (r 0).inputAt k :=
  ⟨⟨State.reset, by decide⟩, scriptEnv, scriptRun, scriptRun_isRun, fun _ => rfl⟩
/-- A held record in cycle 1 of a fair run; a run in `HOLD` whose SINK is never ready; a state in `HOLD`. -/
theorem witness_FairSinkTakesEveryOfferedLine :
    (IsRun alwaysReady readyRun ∧ (readyRun 0).Inv ∧ (readyRun 0).qside = .closed ∧ SinkFair alwaysReady readyRun ∧
      (∀ j, 1 ≤ j → (alwaysReady j).rst = false) ∧ (readyRun 1).st = .hold ∧ (readyRun 1).h = some (plain frameA)) ∧
    (∀ n, ∃ j, n ≤ j ∧ (alwaysReady j).wrReady = true) ∧
    (∃ (env : Nat → CycleInputs) (r : Nat → State), (∀ j, 0 ≤ j → (env j).rst = false ∧ (env j).wrReady = false) ∧
      (r 0).st = .hold) ∧
    ∃ s : State, s.Inv ∧ s.qside = .closed ∧ s.st = .hold :=
  ⟨⟨readyRun_isRun, by decide, by decide, readyRun_fair, fun _ _ => rfl, by decide, by decide⟩,
    fun n => ⟨n, Nat.le_refl n, rfl⟩,
    ⟨fun _ => quiet, fun _ => holdIn heldA [] quiet, fun _ _ => ⟨rfl, rfl⟩, rfl⟩, ⟨holdIn heldA [] quiet, by decide⟩⟩
theorem witness_FairRunsMakeProgress :
    (IsRun alwaysReady readyRun ∧ (readyRun 0).Inv ∧ (readyRun 0).qside = .closed ∧ (∀ k, (alwaysReady k).rst = false) ∧
      SinkFair alwaysReady readyRun) ∧
    (cycleOf alwaysReady readyRun 0).acceptedNow = [plain frameA] ∧ (readyRun 0).q[0]? = some frameA :=
  ⟨⟨readyRun_isRun, by decide, by decide, fun _ => rfl, readyRun_fair⟩, ⟨by decide, by decide⟩⟩

end Sys2Proof.Tests
end

section
/-! SUPPORT. SLENC's pins in a cycle and what the handshakes they offer lead to (10_state.md R26 to R29), and the reset values (R31). -/

namespace Sys2Proof.Machine

open Sys2Proof.Claims

/-! ### The port -/

/-- The model's line of a held record is the pseudocode of R64. -/
theorem encodeSpec_eq_line (h : Hold) : encodeSpec h = h.line := by
  rcases h with ⟨⟨id, ext, rtr, dlc, data⟩, ts, tsEn, lfEn⟩
  cases ext <;> cases rtr <;> rfl

/-- A port driven with a line that fits carries that line (R28). -/
theorem driveLine_carriesLine (o : Outputs) {L : Line} (hL : L.length ≤ 32) : CarriesLine (o.driveLine L) L := by
  constructor
  · simp only [Outputs.driveLine, BitVec.toNat_ofNat]
    omega
  · exact lanes_getElem L

/-! ### The pins, output by output -/

@[simp] theorem pins_deqReady (s : State) : s.pins.deqReady = s.deqReady := by
  unfold State.pins; split <;> rfl

@[simp] theorem pins_wrValid (s : State) : s.pins.wrValid = s.wrValid := by
  unfold State.pins; split <;> rfl

theorem pins_of_hold {s : State} {h : Hold} (hst : s.st = .hold) (hh : s.h = some h) :
    s.pins = s.idlePins.driveLine h.line := by
  simp [State.pins, hst, hh]

theorem pins_of_idle {s : State} (hst : s.st = .idle) : s.pins = s.idlePins := by
  simp [State.pins, hst]

/-- In `HOLD` the port carries `Encode` of `h`, whatever `rst` is (R28, R29). -/
theorem pins_carriesLine {s : State} {h : Hold} (hst : s.st = .hold) (hh : s.h = some h) :
    CarriesLine s.pins h.line := by
  rw [pins_of_hold hst hh]
  exact driveLine_carriesLine s.idlePins (line_length_le h)

/-- In `IDLE` the port is all zero (R29). -/
theorem pins_port_zero {s : State} (hst : s.st = .idle) :
    s.pins.wrLen = 0 ∧ ∀ i, (hi : i < 32) → s.pins.wrData[i] = 0 := by
  rw [pins_of_idle hst]
  exact ⟨rfl, fun i hi => by simp [State.idlePins, Outputs.zero]⟩

/-! ### The handshakes -/

theorem deqReady_eq_decide (s : State) : s.deqReady = decide (s.st = .idle ∧ s.inp.rst = false) := by
  simp [State.deqReady]

theorem wrValid_eq_decide (s : State) : s.wrValid = decide (s.st = .hold ∧ s.inp.rst = false) := by
  simp [State.wrValid]

theorem deqReady_iff {s : State} : s.deqReady = true ↔ s.st = .idle ∧ s.inp.rst = false := by
  rw [deqReady_eq_decide, decide_eq_true_iff]

theorem wrValid_iff {s : State} : s.wrValid = true ↔ s.st = .hold ∧ s.inp.rst = false := by
  rw [wrValid_eq_decide, decide_eq_true_iff]

/-- SINK takes a line only while `wr_valid = 1` (R29). -/
theorem emittedNow_of_not_wrValid {s : State} (hv : s.wrValid = false) : s.emittedNow = [] := by
  unfold State.emittedNow
  cases hr : s.inp.rst with
  | true => rfl
  | false =>
    have hst : s.st ≠ .hold := fun hst => by simp [wrValid_iff.mpr ⟨hst, hr⟩] at hv
    simp [hst]

/-- With `deq_ready = 1` RLY takes the frame offered (R26, R84). -/
theorem cycled_of_deq_handshake {s : State} (hready : s.deqReady = true) (hv : s.deqValid = true) :
    s.cycled.st = .hold ∧ s.cycled.h = some s.sampled := by
  obtain ⟨hst, hr⟩ := deqReady_iff.mp hready
  simp [State.cycled, State.stNext, State.hNext, hst, hr, hv]

/-- With `deq_ready = 1` and no frame offered RLY waits (R26, R82). -/
theorem cycled_st_of_no_offer {s : State} (hready : s.deqReady = true) (hv : s.deqValid = false) :
    s.cycled.st = .idle := by
  obtain ⟨hst, hr⟩ := deqReady_iff.mp hready
  simp [State.cycled, State.stNext, hst, hr, hv]

/-- Settles O35: every next state is `cycled`, whose pins and handshakes are described above. -/
theorem outputsOfACycle : Obligations.OutputsOfACycle := by
  intro s t hstep
  obtain rfl := step_next_inv hstep
  refine ⟨?deqReady, ?wrValid, ?hold, pins_port_zero, ?sink, ?relay⟩
  case deqReady => exact (pins_deqReady s).trans (deqReady_eq_decide s)
  case wrValid => exact (pins_wrValid s).trans (wrValid_eq_decide s)
  case hold =>
    intro h hst hh
    have hport : CarriesLine s.cycled.out h.line := pins_carriesLine hst hh
    rw [encodeSpec_eq_line, hport.1]
    exact ⟨hport, le_line_length h, line_length_le h⟩
  case sink =>
    intro hv
    have hnone : s.emittedNow = [] := emittedNow_of_not_wrValid ((pins_wrValid s).symm.trans hv)
    simp [State.cycled, hnone]
  case relay =>
    intro hready
    have hready : s.deqReady = true := (pins_deqReady s).symm.trans hready
    refine ⟨fun hv => ?_, cycled_st_of_no_offer hready⟩
    obtain ⟨hst, hh⟩ := cycled_of_deq_handshake hready hv
    exact ⟨hst, by rw [hh]; rfl⟩

/-! ### Reset -/

/-- The registers at the end of a reset cycle of the closed system (R31). -/
theorem cycled_of_reset {s : State} (hq : s.qside = .closed) (hr : s.inp.rst = true) :
    s.cycled.st = .idle ∧ s.cycled.h = none ∧ s.cycled.q = [] := by
  simp [State.cycled, State.stNext, State.hNext, State.qNext, hq, hr]

theorem reset_inv : State.reset.Inv := ⟨Nat.zero_le _, by simp⟩

/-- The outputs of an `IDLE` cycle without reset: RLY asks for a frame, the write port is silent (R26, R27, R29). -/
theorem pins_of_idle_running {s : State} (hst : s.st = .idle) (hr : s.inp.rst = false) :
    s.pins.deqReady = true ∧ s.pins.wrValid = false ∧ s.pins.wrLen = 0 ∧ ∀ i, (hi : i < 32) → s.pins.wrData[i] = 0 :=
  ⟨(pins_deqReady s).trans (deqReady_iff.mpr ⟨hst, hr⟩), by simp [State.wrValid, hst], pins_port_zero hst⟩

/-- Settles O37: the reset state read field by field, its first cycle by the pins of an `IDLE` cycle, and reset cycles by `cycled_of_reset`. -/
theorem resetValues : Obligations.ResetValues := by
  refine ⟨reset_st, reset_h, reset_q, reset_inv, fun c cs hc => ?first, fun s hq hr => ?resetCycle⟩
  case first => exact ⟨_, step_closed reset_inv rfl, pins_of_idle_running rfl hc⟩
  case resetCycle => exact ⟨s.cycled, step_reset hr, cycled_of_reset hq hr⟩

end Sys2Proof.Machine
end

section
/-! SUPPORT. The row of its table a selector value hits, and what the bits of the two step selectors are in a closed system (30_encoding.md R59, R63). -/

namespace Sys2Proof

/-- The rows of a selector's table that its value hits: one row, that of the decoded instruction (R59). -/
theorem filter_hits_eq_decoded_row (w : Selector) :
    (tableRows w.table).filter (fun r => r.hits w.value) = [(decode w).tableRow] := by
  cases w with
  | sel v => revert v; decide
  | rsel v => revert v; decide
  | qsel v => revert v; decide

theorem decodeWord_value (w : Selector) : decodeWord w.table w.value = .ok (decode w) := by
  cases w with
  | sel v => simp [Selector.table, Selector.value, decodeWord, decode, v.isLt]
  | rsel v => simp [Selector.table, Selector.value, decodeWord, decode, v.isLt]
  | qsel v => simp [Selector.table, Selector.value, decodeWord, decode, v.isLt]

/-- Settles O3: the decoded instruction's row is the one hit, and every value fits the reader. -/
theorem everySelectorValuePicksOneRow : Obligations.EverySelectorValuePicksOneRow :=
  fun w => ⟨filter_hits_eq_decoded_row w, decodeWord_value w⟩

theorem decodeRsel_eq_rlyAccept_iff (rst st deqValid wrReady w : Bool) :
    decodeRsel (bits4 rst st deqValid wrReady) = .rlyAccept w ↔
      rst = false ∧ st = false ∧ deqValid = true ∧ wrReady = w := by
  revert rst st deqValid wrReady w; decide

namespace Machine

theorem RelaySt.bit_eq_decide (st : RelaySt) : st.bit = decide (st = .hold) := by cases st <;> rfl

theorem deqValid_closed {s : State} (hq : s.qside = .closed) : s.deqValid = decide (0 < s.q.length) := by
  unfold State.deqValid
  rw [hq]
  cases s.q <;> simp

theorem pop_eq_decide_closed {s : State} (hq : s.qside = .closed) :
    s.pop = decide (0 < s.q.length ∧ s.st = .idle ∧ s.inp.rst = false) := by
  rw [State.pop, deqValid_closed hq, deqReady_eq_decide, Bool.decide_and (0 < s.q.length)]

/-- The bits of `rsel` in a closed system (R63, R91). -/
theorem rsel_bits_closed {s : State} (hq : s.qside = .closed) :
    s.rsel[3] = s.inp.rst ∧ s.rsel[2] = decide (s.st = .hold) ∧ s.rsel[1] = decide (0 < s.q.length) ∧
      s.rsel[0] = s.inp.wrReady := by
  simp [State.rsel, RelaySt.bit_eq_decide, deqValid_closed hq]

/-- The bits of `qsel` in a closed system (R63, R92). -/
theorem qsel_bits_closed {s : State} (hq : s.qside = .closed) :
    s.qsel[3] = s.inp.rst ∧ s.qsel[2] = s.inp.enq.isSome ∧
      s.qsel[1] = decide (0 < s.q.length ∧ s.st = .idle ∧ s.inp.rst = false) ∧
      s.qsel[0] = decide (s.q.length = 20) := by
  rw [← pop_eq_decide_closed hq]
  exact ⟨bits4_three .., bits4_two .., bits4_one .., bits4_zero ..⟩

theorem queueInstr_closed {s : State} (hq : s.qside = .closed) : s.queueInstr = some (decode (.qsel s.qsel)) := by
  simp [State.queueInstr, hq]

/-- RLY and Q agree on a pop: the dequeue handshake is exactly the condition of ACCEPT (R63, R83). -/
theorem pop_iff_relayInstr_eq_rlyAccept (s : State) : s.pop = true ↔ ∃ w, s.relayInstr = .rlyAccept w := by
  have hst : s.st.bit = false ↔ s.st = .idle := by cases s.st <;> decide
  simp only [State.relayInstr, decode, State.rsel, decodeRsel_eq_rlyAccept_iff, hst, State.pop, Bool.and_eq_true,
    deqReady_iff]
  constructor
  · rintro ⟨hv, hidle, hr⟩
    exact ⟨_, hr, hidle, hv, rfl⟩
  · rintro ⟨_, hr, hidle, hv, -⟩
    exact ⟨hv, hidle, hr⟩

/-- Settles O4: the tables are evaluated, the bits of the selectors read off, and the row each selector hits is the one
of the instruction it decodes to (`filter_hits_eq_decoded_row`). -/
theorem stepSelectorsPickTheSteps : Obligations.StepSelectorsPickTheSteps := by
  refine ⟨by decide, by decide, fun v => ⟨?relayOne, ?queueOne⟩, fun s hq =>
    ⟨rsel_bits_closed hq, qsel_bits_closed hq, filter_hits_eq_decoded_row (.rsel s.rsel),
      ⟨_, queueInstr_closed hq, filter_hits_eq_decoded_row (.qsel s.qsel)⟩, pop_iff_relayInstr_eq_rlyAccept s⟩⟩
  case relayOne => exact congrArg List.length (filter_hits_eq_decoded_row (.rsel v))
  case queueOne => exact congrArg List.length (filter_hits_eq_decoded_row (.qsel v))

end Machine
end Sys2Proof
end

section
/-! SUPPORT. The packed frame bus (30_encoding.md R49): each field is read back from its place, and the places cover the bus. -/

namespace Sys2Proof

/-- A field is read back from the place it was put at. -/
@[simp] theorem extractLsb'_placed_same {w : Nat} (v : BitVec w) {lo : Nat} (h : lo + w ≤ 106) :
    (placed v lo).extractLsb' lo w = v := by
  apply BitVec.eq_of_getLsbD_eq
  intro i hi
  have hbus : lo + i < 106 := by omega
  simp only [BitVec.getLsbD_extractLsb', getLsbD_placed, hi, hbus, Nat.le_add_right, Nat.add_sub_cancel_left,
    decide_true, Bool.true_and]

/-- A field leaves no bit in a range apart from its own. -/
@[simp] theorem extractLsb'_placed_disjoint {w : Nat} (v : BitVec w) {lo lo' len : Nat}
    (h : lo' + len ≤ lo ∨ lo + w ≤ lo') : (placed v lo).extractLsb' lo' len = 0 := by
  apply BitVec.eq_of_getLsbD_eq
  intro i hi
  simp only [BitVec.getLsbD_extractLsb', getLsbD_placed]
  obtain hbelow | habove := h
  · simp [show ¬ lo ≤ lo' + i by omega]
  · simp [BitVec.getLsbD_of_ge v (lo' + i - lo) (by omega)]

/-! ### Reading the fields of a packed frame (R49) -/

theorem extractLsb'_pack_id (f : Frame) : f.pack.extractLsb' 0 32 = f.id := by
  simp [Frame.pack, BitVec.extractLsb'_or]

theorem getLsbD_pack_ext (f : Frame) : f.pack.getLsbD 32 = f.ext := by
  simp only [Frame.pack, BitVec.getLsbD_or, getLsbD_placed]
  simp

theorem getLsbD_pack_rtr (f : Frame) : f.pack.getLsbD 33 = f.rtr := by
  simp only [Frame.pack, BitVec.getLsbD_or, getLsbD_placed]
  simp

theorem extractLsb'_pack_dlc (f : Frame) : f.pack.extractLsb' 34 8 = f.dlc := by
  simp [Frame.pack, BitVec.extractLsb'_or]

theorem packedByte_pack (f : Frame) (j : Nat) (hj : j < 8) : packedByte f.pack j = f.data[j] := by
  interval_cases j <;> simp [packedByte, Frame.pack, BitVec.extractLsb'_or]

/-! ### Packing and unpacking -/

theorem unpack_data (b : BitVec 106) (j : Nat) (hj : j < 8) : (Frame.unpack b).data[j] = packedByte b j := by
  interval_cases j <;> rfl

theorem unpack_pack (f : Frame) : Frame.unpack f.pack = f := by
  have hdata : (Frame.unpack f.pack).data = f.data :=
    Vector.ext fun j hj => (unpack_data f.pack j hj).trans (packedByte_pack f j hj)
  calc Frame.unpack f.pack
      = ⟨f.pack.extractLsb' 0 32, f.pack.getLsbD 32, f.pack.getLsbD 33, f.pack.extractLsb' 34 8,
          (Frame.unpack f.pack).data⟩ := rfl
    _ = f := by rw [extractLsb'_pack_id, getLsbD_pack_ext, getLsbD_pack_rtr, extractLsb'_pack_dlc, hdata]

/-- Vectors that agree on a range agree on each bit of it. -/
theorem getLsbD_eq_of_extractLsb'_eq {w : Nat} {b c : BitVec w} {lo len : Nat}
    (h : b.extractLsb' lo len = c.extractLsb' lo len) (i : Nat) (hlo : lo ≤ i) (hhi : i < lo + len) :
    b.getLsbD i = c.getLsbD i := by
  have hbit := congrArg (·.getLsbD (i - lo)) h
  simpa only [BitVec.getLsbD_extractLsb', Nat.sub_lt_left_of_lt_add hlo hhi, Nat.add_sub_cancel' hlo, decide_true,
    Bool.true_and] using hbit

/-- The fields cover the bus: two buses that carry the same frame agree on every bit. -/
theorem unpack_injective {b c : BitVec 106} (h : Frame.unpack b = Frame.unpack c) : b = c := by
  apply BitVec.eq_of_getLsbD_eq
  intro i hi
  obtain hid | hext | hrtr | hdlc | hdata : i < 32 ∨ i = 32 ∨ i = 33 ∨ (34 ≤ i ∧ i < 42) ∨ 42 ≤ i := by omega
  · exact getLsbD_eq_of_extractLsb'_eq (congrArg Frame.id h) i (Nat.zero_le i) (by omega)
  · rw [hext]; exact congrArg Frame.ext h
  · rw [hrtr]; exact congrArg Frame.rtr h
  · exact getLsbD_eq_of_extractLsb'_eq (congrArg Frame.dlc h) i hdlc.1 hdlc.2
  · have hj : (i - 42) / 8 < 8 := by omega
    have hbyte : packedByte b ((i - 42) / 8) = packedByte c ((i - 42) / 8) := by
      rw [← unpack_data b _ hj, ← unpack_data c _ hj, h]
    exact getLsbD_eq_of_extractLsb'_eq hbyte i (by omega) (by omega)

theorem pack_unpack (b : BitVec 106) : (Frame.unpack b).pack = b :=
  unpack_injective (unpack_pack (Frame.unpack b))

/-- Settles O5: each field is read where it was placed; packing inverts unpacking because the fields cover the bus. -/
theorem packedFrameBusLayout : Obligations.PackedFrameBusLayout :=
  ⟨fun f => ⟨extractLsb'_pack_id f, getLsbD_pack_ext f, getLsbD_pack_rtr f, extractLsb'_pack_dlc f, packedByte_pack f,
    unpack_pack f⟩, pack_unpack⟩

end Sys2Proof
end

section
/-! SUPPORT. Hexadecimal numbers, the seven fields of a line by position, and the bounds on its length (30_encoding.md R50 to R52, R62). -/

namespace Sys2Proof.Machine

open Sys2Proof.Claims

theorem hexd_toNat (n : BitVec 4) :
    (hexd n).toNat = if n.toNat ≤ 9 then 0x30 + n.toNat else 0x41 + (n.toNat - 10) := by
  revert n; decide

/-- Settles O6: a digit is compared value by value; the digits of a number are the nibbles `hexN_getElem` names. -/
theorem hexNumbersAreMostSignificantFirst : Obligations.HexNumbersAreMostSignificantFirst := by
  refine ⟨hexd_toNat, by decide, by decide, fun v k _ => ⟨hexN_length v k, fun i hi => ?_⟩⟩
  rw [hexN_getElem v k i hi, nib_eq]

/-! ### The fields of a line -/

/-- A field `B` of a line that begins with `A ++ B` is read by its position and length. -/
theorem take_drop_of_append_isPrefix {A B L : Line} {i n : Nat} (h : A ++ B <+: L) (hi : A.length = i)
    (hn : B.length = n) : (L.drop i).take n = B := by
  obtain ⟨C, rfl⟩ := h
  rw [List.append_assoc, List.drop_left' hi, List.take_left' hn]

/-- Seven fields in a row, each read back by its position. -/
theorem seven_fields_by_position {L T I D P S R F : Line} {w m t : Nat} (hL : L = T ++ I ++ D ++ P ++ S ++ R ++ F)
    (hT : T.length = 1) (hI : I.length = w) (hD : D.length = 1) (hP : P.length = m) (hS : S.length = t)
    (hR : R.length = 1) :
    L.take 1 = T ∧ (L.drop 1).take w = I ∧ (L.drop (w + 1)).take 1 = D ∧ (L.drop (w + 2)).take m = P ∧
      (L.drop (w + 2 + m)).take t = S ∧ (L.drop (w + 2 + m + t)).take 1 = R ∧ L.drop (w + 3 + m + t) = F := by
  have throughR : T ++ I ++ D ++ P ++ S ++ R <+: L := ⟨F, hL.symm⟩
  have throughS := (List.prefix_append _ _).trans throughR
  have throughP := (List.prefix_append _ _).trans throughS
  have throughD := (List.prefix_append _ _).trans throughP
  have throughI := (List.prefix_append _ _).trans throughD
  have throughT := (List.prefix_append _ _).trans throughI
  have lenI : (T ++ I).length = w + 1 := by rw [List.length_append]; omega
  have lenD : (T ++ I ++ D).length = w + 2 := by rw [List.length_append]; omega
  have lenP : (T ++ I ++ D ++ P).length = w + 2 + m := by rw [List.length_append]; omega
  have lenS : (T ++ I ++ D ++ P ++ S).length = w + 2 + m + t := by rw [List.length_append]; omega
  have lenR : (T ++ I ++ D ++ P ++ S ++ R).length = w + 3 + m + t := by rw [List.length_append]; omega
  exact ⟨hT ▸ (List.prefix_iff_eq_take.mp throughT).symm, take_drop_of_append_isPrefix throughI hT hI,
    take_drop_of_append_isPrefix throughD lenI hD, take_drop_of_append_isPrefix throughP lenD hP,
    take_drop_of_append_isPrefix throughS lenP hS, take_drop_of_append_isPrefix throughR lenS hR,
    by rw [hL]; exact List.drop_left' lenR⟩

theorem dataBytes_eq_dataCount (h : Hold) : dataBytes h = dataCount h.rtr h.dlc := rfl

theorem dataBytes_le (h : Hold) : dataBytes h ≤ 8 := dataCount_le h.rtr h.dlc

theorem dataBytes_of_rtr {h : Hold} (hr : h.rtr = true) : dataBytes h = 0 := by simp [dataBytes, hr]

theorem typeByte_eq_ite (ext rtr : Bool) :
    typeByte ext rtr = if ext then (if rtr then 0x52 else 0x54) else (if rtr then 0x72 else 0x74) := by
  cases ext <;> cases rtr <;> rfl

theorem idField_length (ext : Bool) (id : Word) :
    (if ext then extIdField id else stdIdField id).length = if ext then 8 else 3 := by
  cases ext <;> simp

/-- Settles O12: the line is seven fields in a row, and R52's positions are the lengths of the fields before each. -/
theorem lineIsSevenFieldsInOrder : Obligations.LineIsSevenFieldsInOrder := by
  intro h
  have hdata : (dataField h.data (dataBytes h)).length = 2 * dataBytes h := dataField_length h.data (dataBytes_le h)
  obtain ⟨htype, hid, hdlc, hpayload, hts, hcr, hlf⟩ :=
    seven_fields_by_position (L := h.line) rfl rfl (idField_length h.ext h.id) (dlcField_length h.dlc) hdata
      (tsField_length h.tsEn h.ts) rfl
  exact ⟨by rw [htype, typeByte_eq_ite], hid, hdlc, hpayload, hts, hcr, hlf, dataBytes_of_rtr⟩

/-! ### The length of a line -/

/-- The shortest line (R62): an extended shape has 11 bytes at least, and each option of a standard one adds to 6. -/
theorem line_length_eq_six_iff (h : Hold) :
    h.line.length = 6 ↔ h.ext = false ∧ dataBytes h = 0 ∧ h.tsEn = false ∧ h.lfEn = false := by
  rw [line_length, ← dataBytes_eq_dataCount]
  cases h.ext with
  | true => simp; omega
  | false =>
    cases h.tsEn <;> cases h.lfEn <;> simp
    omega

/-- The longest line (R62): a standard shape has 27 bytes at most, and an extended one reaches 32 with every option. -/
theorem line_length_eq_32_iff (h : Hold) :
    h.line.length = 32 ↔ h.ext = true ∧ dataBytes h = 8 ∧ h.tsEn = true ∧ h.lfEn = true := by
  have hn := dataBytes_le h
  rw [line_length, ← dataBytes_eq_dataCount]
  cases h.ext with
  | true => cases h.tsEn <;> cases h.lfEn <;> simp <;> omega
  | false => simp; split <;> split <;> omega

/-- `wr_len` holds the length of every line (R62). -/
theorem wrLen_holds_line_length (h : Hold) : (BitVec.ofNat 6 h.line.length).toNat = h.line.length := by
  have := line_length_le h
  rw [BitVec.toNat_ofNat, Nat.mod_eq_of_lt (by omega)]

/-- Settles O13: the bounds follow from the length formula of R56; the three lines are those of `r7FF5`, `t0000` and an
extended frame with eight data bytes, TS and LF. -/
theorem lineLengthBounds : Obligations.LineLengthBounds := by
  refine ⟨fun h => ⟨le_line_length h, line_length_le h, wrLen_holds_line_length h, dataBytes_le h,
    line_length_eq_six_iff h, line_length_eq_32_iff h⟩, ?r7FF5, ?t0000, ?longest⟩
  case r7FF5 => exact ⟨⟨⟨0x7FF, false, true, 5, Vector.replicate 8 0⟩, 0, false, false⟩, by decide⟩
  case t0000 => exact ⟨⟨⟨0, false, false, 0, Vector.replicate 8 0⟩, 0, false, false⟩, by decide⟩
  case longest =>
    exact ⟨⟨⟨0, true, false, 8, Vector.replicate 8 0⟩, 0, true, true⟩, (line_length_eq_32_iff _).mpr (by decide)⟩

end Sys2Proof.Machine
end

section
/-! SUPPORT. Reading a line back (40_encoder.md R77): the masks bound what each field holds, so the reader of each field recovers it. -/

namespace Sys2Proof.Machine

open Sys2Proof.Claims

/-! ### What the masks leave (R69 to R71) -/

/-- A mask of `k` ones reduces modulo `2 ^ k`. -/
theorem toNat_and_lowMask {w : Nat} (v m : BitVec w) {k : Nat} (hm : m.toNat = 2 ^ k - 1) :
    (v &&& m).toNat = v.toNat % 2 ^ k := by
  rw [BitVec.toNat_and, hm, Nat.and_two_pow_sub_one_eq_mod]

theorem toNat_and_stdIdMask (id : Word) : (id &&& Config.stdIdMask).toNat = id.toNat % 2 ^ 11 :=
  toNat_and_lowMask id _ rfl

theorem toNat_and_extIdMask (id : Word) : (id &&& Config.extIdMask).toNat = id.toNat % 2 ^ 29 :=
  toNat_and_lowMask id _ rfl

theorem dlcNibble_eq_mod (dlc : Byte) : dlcNibble dlc = dlc.toNat % 2 ^ 4 :=
  toNat_and_lowMask dlc _ rfl

/-! ### The fields as the reader meets them -/

/-- A line with its TYPE byte in front and its end in one piece. -/
theorem line_eq_cons (h : Hold) :
    h.line = typeByte h.ext h.rtr :: ((if h.ext then extIdField h.id else stdIdField h.id) ++
      (dlcField h.dlc ++ (dataField h.data (dataCount h.rtr h.dlc) ++ h.tail))) := by
  simp only [Hold.line, encodeLine, Hold.tail, List.append_assoc, List.cons_append, List.nil_append]

theorem shapeOf_typeByte (ext rtr : Bool) : shapeOf (typeByte ext rtr) = some (ext, rtr) := by
  revert ext rtr; decide

theorem readHex_idField (ext : Bool) (id : Word) (L : Line) :
    readHex (idDigits ext) ((if ext then extIdField id else stdIdField id) ++ L) =
      some ((id &&& if ext then Config.extIdMask else Config.stdIdMask).toNat, L) := by
  cases ext with
  | false => exact readHex_hexN (k := 3) (by rw [toNat_and_stdIdMask]; omega) L
  | true => exact readHex_hexN (k := 8) (by rw [toNat_and_extIdMask]; omega) L

theorem readHex_dlcField (dlc : Byte) (L : Line) : readHex 1 (dlcField dlc ++ L) = some (dlcNibble dlc, L) :=
  readHex_hexN (by rw [dlcNibble_eq_mod]; omega) L

theorem readData_dataField (data : Vector Byte 8) {n : Nat} (hn : n ≤ 8) (L : Line) :
    readData n (dataField data n ++ L) = some (data.toList.take n, L) := by
  have hlen : (data.toList.take n).length = n := by simpa using hn
  have hread := readData_digits L (data.toList.take n)
  rwa [hlen] at hread

/-- The reader recovers from a line what R77 says the line says. -/
theorem readLine_line (h : Hold) : readLine h.line = some h.fields := by
  have hdata := readData_dataField h.data (dataCount_le h.rtr h.dlc) h.tail
  unfold dataCount at hdata
  simp only [line_eq_cons, readLine, shapeOf_typeByte, readFields, readHex_idField, readHex_dlcField, dataCount, hdata,
    readTail_tail]
  rfl

/-- The record's fields with R77's masks written out. -/
theorem fields_id (h : Hold) :
    h.fields.id = if h.ext then (h.id &&& 0x1FFFFFFF).toNat else (h.id &&& 0x7FF).toNat := by
  unfold Hold.fields
  cases h.ext <;> rfl

/-- Settles O16: every field is read back by its own reader (`readLine_line`); the masks are R77's. -/
theorem readingALineRecoversItsFields : Obligations.ReadingALineRecoversItsFields := by
  intro h
  rw [readLine_line, ← fields_id]
  rfl

end Sys2Proof.Machine
end

section
/-! SUPPORT. What a line depends on (40_encoder.md R75), and the four frame shapes as `Encode` of a record whose bits `ext:rtr` are the shape's (R64 to R68). -/

namespace Sys2Proof.Machine

open Sys2Proof.Claims

/-! ### What a line depends on (R54, R75) -/

theorem idField_congr {ext : Bool} {id id' : Word} (hstd : ext = false → id &&& 0x7FF = id' &&& 0x7FF)
    (hext : ext = true → id &&& 0x1FFFFFFF = id' &&& 0x1FFFFFFF) :
    (if ext then extIdField id else stdIdField id) = if ext then extIdField id' else stdIdField id' := by
  cases ext with
  | false => exact congrArg (fun v : Word => hexN v.toNat 3) (hstd rfl)
  | true => exact congrArg (fun v : Word => hexN v.toNat 8) (hext rfl)

theorem dlcNibble_congr {dlc dlc' : Byte} (h : dlc &&& 0xF = dlc' &&& 0xF) : dlcNibble dlc = dlcNibble dlc' :=
  congrArg BitVec.toNat h

/-- The DATA field reads no byte beyond the `n` it renders. -/
theorem dataField_congr {data data' : Vector Byte 8} {n : Nat}
    (h : ∀ j, (hj : j < 8) → j < n → data[j] = data'[j]) : dataField data n = dataField data' n := by
  have htake : data.toList.take n = data'.toList.take n := by
    apply List.ext_getElem (by simp)
    intro j hj _
    simp only [List.length_take, Vector.length_toList] at hj
    simpa using h j (by omega) (by omega)
  rw [dataField, dataField, htake]

theorem tsField_congr {tsEn : Bool} {ts ts' : Word} (h : tsEn = true → ts = ts') : tsField tsEn ts = tsField tsEn ts' := by
  cases tsEn with
  | false => rfl
  | true => rw [h rfl]

/-- Settles O18: each field is the same in both records by its own congruence. -/
theorem encodeIgnoresUnreadInputs : Obligations.EncodeIgnoresUnreadInputs := by
  rintro a b ⟨hext, hrtr, htsEn, hlfEn, hstdId, hextId, hdlc, hdata, hts⟩
  have hcount : dataCount a.rtr a.dlc = dataCount b.rtr b.dlc := by
    rw [dataCount, dataCount, hrtr, dlcNibble_congr hdlc]
  have hdlcField : dlcField a.dlc = dlcField b.dlc := by rw [dlcField, dlcField, dlcNibble_congr hdlc]
  have hdataField : dataField a.data (dataCount a.rtr a.dlc) = dataField b.data (dataCount a.rtr a.dlc) :=
    dataField_congr hdata
  rw [Hold.line, Hold.line, encodeLine, encodeLine, idField_congr hstdId hextId, hdlcField, hdataField, hcount,
    tsField_congr hts, hext, hrtr, htsEn, hlfEn]

/-! ### The shapes -/

/-- The record with the bits `ext:rtr` of a chosen shape. -/
def Hold.withShape (h : Hold) (ext rtr : Bool) : Hold := { h with ext := ext, rtr := rtr }

theorem withShape_self (h : Hold) : h.withShape h.ext h.rtr = h := rfl

/-- The pseudocode of R65 is that of R64 for its shape; so for R66 to R68. -/
theorem stdDataLine_eq (h : Hold) : stdDataLine h = (h.withShape false false).line := by
  simp only [stdDataLine, trailer, ← List.append_assoc]; rfl

theorem stdRemoteLine_eq (h : Hold) : stdRemoteLine h = (h.withShape false true).line := by
  simp only [stdRemoteLine, trailer, ← List.append_assoc]; rfl

theorem extDataLine_eq (h : Hold) : extDataLine h = (h.withShape true false).line := by
  simp only [extDataLine, trailer, ← List.append_assoc]; rfl

theorem extRemoteLine_eq (h : Hold) : extRemoteLine h = (h.withShape true true).line := by
  simp only [extRemoteLine, trailer, ← List.append_assoc]; rfl

/-- An instruction that drives the port from the held record changes nothing else (R28). -/
theorem drivesPort_of_driveFrom {i : Instr} {f : Hold → Line} {s : State} {h : Hold} (hi : exec i s = driveFrom f s)
    (hh : s.h = some h) (hL : (f h).length ≤ 32) : DrivesPort i s (f h) :=
  ⟨s.out.driveLine (f h), hi.trans (driveFrom_read (readHeld_some hh)), rfl, rfl, driveLine_carriesLine s.out hL⟩

/-- A shape run on any held record drives `Encode` of the record taken for that shape, whichever shape the record
itself selects (log 11). -/
theorem drivesPort_shape {s : State} {h : Hold} (hh : s.h = some h) (ext rtr : Bool) :
    DrivesPort (decode (.sel (bits2 ext rtr))) s (h.withShape ext rtr).line := by
  have hL := line_length_le (h.withShape ext rtr)
  cases ext <;> cases rtr
  · rw [← stdDataLine_eq] at hL ⊢; exact drivesPort_of_driveFrom (f := Hold.stdDataLine) rfl hh hL
  · rw [← stdRemoteLine_eq] at hL ⊢; exact drivesPort_of_driveFrom (f := Hold.stdRemoteLine) rfl hh hL
  · rw [← extDataLine_eq] at hL ⊢; exact drivesPort_of_driveFrom (f := Hold.extDataLine) rfl hh hL
  · rw [← extRemoteLine_eq] at hL ⊢; exact drivesPort_of_driveFrom (f := Hold.extRemoteLine) rfl hh hL

/-- Settles O11: the record taken for its own shape is the record itself. -/
theorem selectedShapeDrivesEncode : Obligations.SelectedShapeDrivesEncode := by
  intro s h hh
  rw [encodeSpec_eq_line]
  exact ⟨rfl, rfl, drivesPort_shape hh h.ext h.rtr⟩

theorem rendered_le (dlc : Byte) : rendered dlc ≤ 8 := dataCount_le false dlc

theorem rendered_eq (dlc : Byte) : rendered dlc = min (dlc.toNat % 2 ^ 4) 8 :=
  congrArg (min · 8) (dlcNibble_eq_mod dlc)

/-- A `dlc` of 9 to 15 keeps its digit and renders eight bytes (R71, conflict C2). -/
theorem dlc_nine_to_fifteen (d : Byte) (h9 : 9 ≤ d.toNat) (h15 : d.toNat ≤ 15) : (d &&& 0xF) = d ∧ rendered d = 8 := by
  have hd : (d &&& 0xF).toNat = d.toNat % 2 ^ 4 := dlcNibble_eq_mod d
  constructor
  · apply BitVec.eq_of_toNat_eq; omega
  · rw [rendered_eq]; omega

/-- The length of a shape's line (R56). -/
theorem withShape_line_length (h : Hold) (ext rtr : Bool) :
    (h.withShape ext rtr).line.length = (if ext then 8 else 3) + 2 * dataCount rtr h.dlc + (if h.tsEn then 4 else 0) +
      (if h.lfEn then 1 else 0) + 3 := line_length _

theorem stdDataLine_length (h : Hold) :
    (stdDataLine h).length = 6 + 2 * rendered h.dlc + (if h.tsEn then 4 else 0) + (if h.lfEn then 1 else 0) := by
  rw [stdDataLine_eq, withShape_line_length, show dataCount false h.dlc = rendered h.dlc from rfl]
  simp only [Bool.false_eq_true, if_false]
  omega

theorem stdRemoteLine_length (h : Hold) :
    (stdRemoteLine h).length = 6 + (if h.tsEn then 4 else 0) + (if h.lfEn then 1 else 0) := by
  rw [stdRemoteLine_eq, withShape_line_length, show dataCount true h.dlc = 0 from rfl]
  simp only [Bool.false_eq_true, if_false]
  omega

theorem extDataLine_length (h : Hold) :
    (extDataLine h).length = 11 + 2 * rendered h.dlc + (if h.tsEn then 4 else 0) + (if h.lfEn then 1 else 0) := by
  rw [extDataLine_eq, withShape_line_length, show dataCount false h.dlc = rendered h.dlc from rfl]
  simp only [if_true]
  omega

theorem extRemoteLine_length (h : Hold) :
    (extRemoteLine h).length = 11 + (if h.tsEn then 4 else 0) + (if h.lfEn then 1 else 0) := by
  rw [extRemoteLine_eq, withShape_line_length, show dataCount true h.dlc = 0 from rfl]
  simp only [if_true]
  omega

theorem optionFields_length_le (tsEn lfEn : Bool) : (if tsEn then 4 else 0) + (if lfEn then 1 else 0) ≤ 5 := by
  revert tsEn lfEn; decide

/-- A shape's line reads only the inputs R75 leaves (`encodeIgnoresUnreadInputs`). -/
theorem withShape_line_congr {a b : Hold} (ext rtr : Bool) (hstd : ext = false → a.id &&& 0x7FF = b.id &&& 0x7FF)
    (hext : ext = true → a.id &&& 0x1FFFFFFF = b.id &&& 0x1FFFFFFF) (hdlc : a.dlc = b.dlc) (hts : a.ts = b.ts)
    (htsEn : a.tsEn = b.tsEn) (hlfEn : a.lfEn = b.lfEn)
    (hdata : ∀ j, (hj : j < 8) → j < dataCount rtr a.dlc → a.data[j] = b.data[j]) :
    (a.withShape ext rtr).line = (b.withShape ext rtr).line :=
  encodeIgnoresUnreadInputs _ _ ⟨rfl, rfl, htsEn, hlfEn, hstd, hext, congrArg (· &&& 0xF) hdlc, hdata, fun _ => hts⟩

/-! ### Digits by position -/

/-- The DLC digit of a line stands right after the ID digits (R52, R71). -/
theorem line_getElem?_dlc (h : Hold) :
    h.line[if h.ext then 9 else 4]? = some (hexd ((h.dlc &&& 0xF).setWidth 4)) := by
  rw [line_eq_cons]
  cases h.ext <;> rfl

/-- The first ID digit of an extended line holds bit 28 of the identifier alone (R55, R70). -/
theorem line_getElem?_one_of_ext {h : Hold} (hext : h.ext = true) :
    h.line[1]? = some 0x30 ∨ h.line[1]? = some 0x31 := by
  have hdigit : h.line[1]? = some (hexd (nib 7 (h.id &&& Config.extIdMask).toNat)) := by
    rw [line_eq_cons, hext]; rfl
  have hbit : h.id.toNat % 2 ^ 29 / 16 ^ 7 % 16 = 0 ∨ h.id.toNat % 2 ^ 29 / 16 ^ 7 % 16 = 1 := by omega
  rw [hdigit, nib_eq, toNat_and_extIdMask]
  obtain h0 | h1 := hbit
  · rw [h0]; exact .inl rfl
  · rw [h1]; exact .inr rfl

/-! ### The statements about the four shapes (R65 to R68) -/

/-- Settles O7: `ENC_t` is the shape `00` (`drivesPort_shape`); the worked example reads two data bytes alone. -/
theorem stdDataShapeDrivesItsLine : Obligations.StdDataShapeDrivesItsLine := by
  refine ⟨rfl, fun s h hh => ?line, fun a b hid hdlc hts htsEn hlfEn hdata => ?unread, by decide, by decide,
    dlc_nine_to_fifteen, by decide, by decide, fun h hid hdlc h0 h1 htsEn hlfEn => ?worked⟩
  case line =>
    have hport : DrivesPort .encStdData s (stdDataLine h) := by
      rw [stdDataLine_eq]; exact drivesPort_shape hh false false
    have hlen := stdDataLine_length h
    have hn := rendered_le h.dlc
    have hopt := optionFields_length_le h.tsEn h.lfEn
    exact ⟨hport, hlen, by omega, by omega⟩
  case unread =>
    rw [stdDataLine_eq, stdDataLine_eq]
    exact withShape_line_congr false false (fun _ => hid) nofun hdlc hts htsEn hlfEn hdata
  case worked =>
    have hbytes : dataDigits h.data 2 = hexN 0xAB 2 ++ hexN 0xCD 2 :=
      dataField_congr (data' := #v[0xAB, 0xCD, 0, 0, 0, 0, 0, 0]) fun j _ hj => by
        interval_cases j
        exacts [h0, h1]
    rw [stdDataLine, trailer, hid, hdlc, htsEn, hlfEn, show rendered 2 = 2 from rfl, hbytes]
    rfl

/-- Settles O8: `ENC_r` is the shape `01`; its pseudocode names no data. -/
theorem stdRemoteShapeDrivesItsLine : Obligations.StdRemoteShapeDrivesItsLine := by
  refine ⟨rfl, fun s h hh => ?line, fun h data => rfl, fun h => ?dlcDigit, fun h hid hdlc htsEn hlfEn => ?worked⟩
  case line =>
    have hport : DrivesPort .encStdRemote s (stdRemoteLine h) := by
      rw [stdRemoteLine_eq]; exact drivesPort_shape hh false true
    have hlen := stdRemoteLine_length h
    have hopt := optionFields_length_le h.tsEn h.lfEn
    exact ⟨hport, hlen, by omega, by omega⟩
  case dlcDigit =>
    rw [stdRemoteLine_eq]
    exact line_getElem?_dlc (h.withShape false true)
  case worked =>
    rw [stdRemoteLine, trailer, hid, hdlc, htsEn, hlfEn]
    rfl

/-- Settles O9: `ENC_T` is the shape `10`; the worked example renders no data byte. -/
theorem extDataShapeDrivesItsLine : Obligations.ExtDataShapeDrivesItsLine := by
  refine ⟨rfl, fun s h hh => ?line, fun a b hid hdlc hts htsEn hlfEn hdata => ?unread, by decide, by decide,
    dlc_nine_to_fifteen, by decide, by decide, fun h hid hdlc htsEn hlfEn => ?worked⟩
  case line =>
    have hport : DrivesPort .encExtData s (extDataLine h) := by
      rw [extDataLine_eq]; exact drivesPort_shape hh true false
    have hfirst : (extDataLine h)[1]? = some 0x30 ∨ (extDataLine h)[1]? = some 0x31 := by
      rw [extDataLine_eq]; exact line_getElem?_one_of_ext rfl
    have hlen := extDataLine_length h
    have hn := rendered_le h.dlc
    have hopt := optionFields_length_le h.tsEn h.lfEn
    exact ⟨hport, hlen, by omega, by omega, hfirst⟩
  case unread =>
    rw [extDataLine_eq, extDataLine_eq]
    exact withShape_line_congr true false nofun (fun _ => hid) hdlc hts htsEn hlfEn hdata
  case worked =>
    have hbytes : dataDigits h.data (rendered 0) = [] := rfl
    rw [extDataLine, trailer, hid, hdlc, htsEn, hlfEn, hbytes]
    rfl

/-- Settles O10: `ENC_R` is the shape `11`; its pseudocode names no data, and the mask clears `id[31:29]`. -/
theorem extRemoteShapeDrivesItsLine : Obligations.ExtRemoteShapeDrivesItsLine := by
  refine ⟨rfl, fun s h hh => ?line, fun h data => rfl, fun a b hid hdlc hts htsEn hlfEn => ?unread,
    fun h hid hdlc htsEn hlfEn => ?worked⟩
  case line =>
    have hport : DrivesPort .encExtRemote s (extRemoteLine h) := by
      rw [extRemoteLine_eq]; exact drivesPort_shape hh true true
    have hfirst : (extRemoteLine h)[1]? = some 0x30 ∨ (extRemoteLine h)[1]? = some 0x31 := by
      rw [extRemoteLine_eq]; exact line_getElem?_one_of_ext rfl
    have hlen := extRemoteLine_length h
    have hopt := optionFields_length_le h.tsEn h.lfEn
    exact ⟨hport, hlen, by omega, by omega, hfirst⟩
  case unread =>
    rw [extRemoteLine_eq, extRemoteLine_eq]
    exact withShape_line_congr true true nofun (fun _ => hid) hdlc hts htsEn hlfEn fun j _ hj => absurd hj j.not_lt_zero
  case worked =>
    rw [extRemoteLine, trailer, hid, hdlc, htsEn, hlfEn]
    rfl

end Sys2Proof.Machine
end

section
/-! SUPPORT. The end of a line (40_encoder.md R73, R74) and the document's testable properties (R78). -/

namespace Sys2Proof.Machine

open Sys2Proof.Claims

/-! ### The body: everything before CR -/

/-- The fields of a line before CR: TYPE, ID, DLC, DATA and TS (R52). -/
def Hold.body (h : Hold) : Line :=
  [typeByte h.ext h.rtr] ++ (if h.ext then extIdField h.id else stdIdField h.id) ++ dlcField h.dlc ++
    dataField h.data (dataCount h.rtr h.dlc) ++ tsField h.tsEn h.ts

theorem line_eq_body (h : Hold) : h.line = h.body ++ [0x0D] ++ (if h.lfEn then [0x0A] else []) := rfl

theorem body_length (h : Hold) :
    h.body.length = 2 + (if h.ext then 8 else 3) + 2 * dataBytes h + (if h.tsEn then 4 else 0) := by
  have hline := line_length h
  have hlf : (if h.lfEn then [0x0A] else [] : Line).length = if h.lfEn then 1 else 0 := lfField_length h.lfEn
  rw [line_eq_body, List.length_append, List.length_append, List.length_singleton, hlf,
    ← dataBytes_eq_dataCount] at hline
  omega

theorem le_hexd_toNat (n : BitVec 4) : 0x30 ≤ (hexd n).toNat := by
  rw [hexd_toNat]; split <;> omega

theorem le_of_mem_hexN {v k : Nat} {b : Byte} (hb : b ∈ hexN v k) : 0x30 ≤ b.toNat := by
  induction k with
  | zero => cases hb
  | succ k ih =>
    obtain rfl | htail := List.mem_cons.mp hb
    · exact le_hexd_toNat _
    · exact ih htail

/-- No byte of the body is a control character: it holds a TYPE letter and hex digits (R55). -/
theorem le_of_mem_body {h : Hold} {b : Byte} (hb : b ∈ h.body) : 0x30 ≤ b.toNat := by
  have htype : 0x30 ≤ (typeByte h.ext h.rtr).toNat := by cases h.ext <;> cases h.rtr <;> decide
  simp only [Hold.body, List.mem_append, List.mem_singleton] at hb
  obtain (((rfl | hid) | hdlc) | hdata) | hts := hb
  · exact htype
  · split at hid <;> exact le_of_mem_hexN hid
  · exact le_of_mem_hexN hdlc
  · obtain ⟨_, _, hdigit⟩ := List.mem_flatMap.mp hdata
    exact le_of_mem_hexN hdigit
  · unfold tsField at hts
    split at hts
    · exact le_of_mem_hexN hts
    · cases hts

theorem cr_notMem_body (h : Hold) : (0x0D : Byte) ∉ h.body := fun hb => absurd (le_of_mem_body hb) (by decide)

theorem lf_notMem_body (h : Hold) : (0x0A : Byte) ∉ h.body := fun hb => absurd (le_of_mem_body hb) (by decide)

/-! ### The end of a line -/

theorem line_of_not_lfEn {h : Hold} (hlf : h.lfEn = false) : h.line = h.body ++ [0x0D] := by
  rw [line_eq_body, hlf]; exact List.append_nil _

theorem line_of_lfEn {h : Hold} (hlf : h.lfEn = true) : h.line = h.body ++ [0x0D, 0x0A] := by
  rw [line_eq_body, hlf, List.append_assoc]; rfl

theorem line_getLast?_of_not_lfEn {h : Hold} (hlf : h.lfEn = false) : h.line.getLast? = some 0x0D := by
  rw [line_of_not_lfEn hlf, List.getLast?_concat]

theorem line_count_cr (h : Hold) : h.line.count 0x0D = 1 := by
  have hbody : h.body.count 0x0D = 0 := List.count_eq_zero_of_not_mem (cr_notMem_body h)
  cases hlf : h.lfEn with
  | false => rw [line_of_not_lfEn hlf, List.count_append, hbody]; rfl
  | true => rw [line_of_lfEn hlf, List.count_append, hbody]; rfl

/-- Settles O15: the body holds neither CR nor LF, and CR and the requested LF follow it. -/
theorem oneCarriageReturnThenOptionalLineFeed : Obligations.OneCarriageReturnThenOptionalLineFeed := by
  refine fun h => ⟨line_count_cr h, fun hlf => ⟨line_getLast?_of_not_lfEn hlf, ?noLf⟩, fun hlf => ⟨?lastLf, ?oneLf⟩,
    h.body, line_eq_body h, body_length h⟩
  case noLf =>
    rw [line_of_not_lfEn hlf, List.mem_append, not_or]
    exact ⟨lf_notMem_body h, by decide⟩
  case lastLf => rw [line_eq_body, hlf]; exact List.getLast?_concat
  case oneLf =>
    have hbody : h.body.count 0x0A = 0 := List.count_eq_zero_of_not_mem (lf_notMem_body h)
    rw [line_of_lfEn hlf, List.count_append, hbody]
    rfl

/-! ### The document's properties -/

/-- The number the ID digits of a line spell is the masked identifier (R77). -/
theorem readHex_line_id (h : Hold) :
    (readHex (idDigits h.ext) (h.line.drop 1)).map Prod.fst =
      some (h.id &&& if h.ext then Config.extIdMask else Config.stdIdMask).toNat := by
  rw [line_eq_cons, List.drop_succ_cons, List.drop_zero, readHex_idField]
  rfl

/-- Settles O19: each property is read off the reader's result, the DLC digit's place, the end or the length of a line. -/
theorem documentPropertiesHold : Obligations.DocumentPropertiesHold := by
  refine fun h => ⟨fun hext => ⟨?idLength, ?stdId⟩, line_getElem?_dlc h, fun hrtr => ?noData, line_getLast?_of_not_lfEn,
    fun hlf => ?crLf, fun hrtr hdlc => ?length, fun hext hid => ?extId⟩
  case idLength =>
    have hlen := le_line_length h
    rw [List.length_take, List.length_drop]
    omega
  case stdId =>
    have hread := readHex_line_id h
    rwa [hext] at hread
  case noData =>
    rw [readingALineRecoversItsFields h, dataBytes_of_rtr hrtr]
    rfl
  case crLf =>
    rw [line_of_lfEn hlf]
    exact List.drop_left' (by simp)
  case length =>
    have hcount : dataCount h.rtr h.dlc = h.dlc.toNat := by
      rw [← dataBytes_eq_dataCount, dataBytes, hrtr, if_neg Bool.false_ne_true, rendered_eq]
      omega
    rw [line_length, hcount]
    omega
  case extId =>
    have hread := readHex_line_id h
    have hmask : (h.id &&& Config.extIdMask).toNat = h.id.toNat := by
      rw [toNat_and_extIdMask, Nat.mod_eq_of_lt hid]
    rwa [hext, if_pos rfl, hmask] at hread

end Sys2Proof.Machine
end

section
/-! SUPPORT. RLY's part of one cycle, step by step (41_relay.md R81 to R86), and what a cycle without reset keeps: each record held or accepted is emitted or still held, each frame queued or stored is taken or still queued (R87). -/

namespace Sys2Proof.Machine

open Sys2Proof.Claims

/-! ### The state after the edge, field by field -/

@[simp] theorem cycled_st (s : State) : s.cycled.st = s.stNext := rfl
@[simp] theorem cycled_h (s : State) : s.cycled.h = s.hNext := rfl
@[simp] theorem cycled_q (s : State) : s.cycled.q = s.qNext := rfl
@[simp] theorem cycled_out (s : State) : s.cycled.out = s.pins := rfl

/-- The lines SINK has taken after the edge are the ones before it and `Encode` of the record emitted. -/
theorem cycled_lines (s : State) : s.cycled.lines = s.lines ++ s.emittedNow.map encodeSpec := by
  rw [funext encodeSpec_eq_line]; rfl

/-! ### The step RLY takes (R80) -/

theorem relayInstr_of_reset {s : State} (hr : s.inp.rst = true) :
    s.relayInstr = .rlyReset s.st.bit s.deqValid s.inp.wrReady := by
  rw [State.relayInstr, State.rsel, hr]
  cases s.st.bit <;> cases s.deqValid <;> cases s.inp.wrReady <;> rfl

theorem relayInstr_of_wait {s : State} (hst : s.st = .idle) (hv : s.deqValid = false) (hr : s.inp.rst = false) :
    s.relayInstr = .rlyWait s.inp.wrReady := by
  rw [State.relayInstr, State.rsel, hst, hv, hr]
  cases s.inp.wrReady <;> rfl

theorem relayInstr_of_accept {s : State} (hst : s.st = .idle) (hv : s.deqValid = true) (hr : s.inp.rst = false) :
    s.relayInstr = .rlyAccept s.inp.wrReady := by
  rw [State.relayInstr, State.rsel, hst, hv, hr]
  cases s.inp.wrReady <;> rfl

theorem relayInstr_of_stall {s : State} (hst : s.st = .hold) (hw : s.inp.wrReady = false) (hr : s.inp.rst = false) :
    s.relayInstr = .rlyStall s.deqValid := by
  rw [State.relayInstr, State.rsel, hst, hw, hr]
  cases s.deqValid <;> rfl

theorem relayInstr_of_emit {s : State} (hst : s.st = .hold) (hw : s.inp.wrReady = true) (hr : s.inp.rst = false) :
    s.relayInstr = .rlyEmit s.deqValid := by
  rw [State.relayInstr, State.rsel, hst, hw, hr]
  cases s.deqValid <;> rfl

/-! ### The record accepted and the record emitted in a cycle -/

theorem acceptedNow_of_accept {s : State} (hst : s.st = .idle) (hv : s.deqValid = true) (hr : s.inp.rst = false) :
    s.acceptedNow = [s.sampled] := if_pos ⟨hst, hv, hr⟩

theorem acceptedNow_of_hold {s : State} (hst : s.st = .hold) : s.acceptedNow = [] := by simp [State.acceptedNow, hst]

theorem acceptedNow_of_not_deqValid {s : State} (hv : s.deqValid = false) : s.acceptedNow = [] := by
  simp [State.acceptedNow, hv]

theorem acceptedNow_eq_singleton {s : State} {h : Hold} (ha : s.acceptedNow = [h]) :
    s.st = .idle ∧ s.deqValid = true ∧ s.inp.rst = false ∧ s.sampled = h := by
  unfold State.acceptedNow at ha
  split at ha
  case isTrue hc => exact ⟨hc.1, hc.2.1, hc.2.2, List.singleton_inj.mp ha⟩
  case isFalse => cases ha

theorem emittedNow_of_reset {s : State} (hr : s.inp.rst = true) : s.emittedNow = [] := if_pos hr

theorem emittedNow_of_idle {s : State} (hst : s.st = .idle) : s.emittedNow = [] := by simp [State.emittedNow, hst]

theorem emittedNow_of_stall {s : State} (hw : s.inp.wrReady = false) : s.emittedNow = [] := by
  simp [State.emittedNow, hw]

theorem emittedNow_of_emit {s : State} (hst : s.st = .hold) (hw : s.inp.wrReady = true) (hr : s.inp.rst = false) :
    s.emittedNow = s.h.toList := by simp [State.emittedNow, hst, hw, hr]

/-! ### RLY's registers after each step -/

theorem relay_of_reset {s : State} (hr : s.inp.rst = true) : s.stNext = .idle ∧ s.hNext = none := by
  simp [State.stNext, State.hNext, hr]

theorem relay_of_wait {s : State} (hst : s.st = .idle) (hv : s.deqValid = false) (hr : s.inp.rst = false) :
    s.stNext = .idle ∧ s.hNext = s.h := by simp [State.stNext, State.hNext, hst, hv, hr]

theorem relay_of_accept {s : State} (hst : s.st = .idle) (hv : s.deqValid = true) (hr : s.inp.rst = false) :
    s.stNext = .hold ∧ s.hNext = some s.sampled := cycled_of_deq_handshake (deqReady_iff.mpr ⟨hst, hr⟩) hv

theorem relay_of_stall {s : State} (hst : s.st = .hold) (hw : s.inp.wrReady = false) (hr : s.inp.rst = false) :
    s.stNext = .hold ∧ s.hNext = s.h := by simp [State.stNext, State.hNext, hst, hw, hr]

theorem relay_of_emit {s : State} (hst : s.st = .hold) (hw : s.inp.wrReady = true) (hr : s.inp.rst = false) :
    s.stNext = .idle ∧ s.hNext = s.h := by simp [State.stNext, State.hNext, hst, hw, hr]

/-! ### Q's frames after the edge -/

/-- Q pops exactly when RLY takes ACCEPT (R83). -/
theorem pop_iff {s : State} : s.pop = true ↔ s.st = .idle ∧ s.deqValid = true ∧ s.inp.rst = false := by
  rw [State.pop, Bool.and_eq_true, deqReady_iff, and_left_comm]

theorem pop_of_not_deqReady {s : State} (hready : s.deqReady = false) : s.pop = false := by
  rw [State.pop, hready, Bool.and_false]

theorem deqReady_of_hold {s : State} (hst : s.st = .hold) : s.deqReady = false := by simp [State.deqReady, hst]

theorem deqFrame_of_cons {s : State} {f : Frame} {rest : List Frame} (hq : s.qside = .closed) (hs : s.q = f :: rest) :
    s.deqFrame = f := by
  simp [State.deqFrame, hq, hs]

theorem deqValid_of_cons {s : State} {f : Frame} {rest : List Frame} (hq : s.qside = .closed) (hs : s.q = f :: rest) :
    s.deqValid = true := by
  simp [deqValid_closed hq, hs]

/-- The offer of a closed Q is its head (R91). -/
theorem q_eq_deqFrame_cons {s : State} (hq : s.qside = .closed) (hv : s.deqValid = true) :
    s.q = s.deqFrame :: s.q.tail := by
  cases hs : s.q with
  | nil => simp [deqValid_closed hq, hs] at hv
  | cons f rest => rw [deqFrame_of_cons hq hs]; rfl

theorem qNext_of_pop {s : State} (hq : s.qside = .closed) (hr : s.inp.rst = false) (hp : s.pop = true) :
    s.qNext = s.q.tail ++ s.storedNow := by simp [State.qNext, hq, hr, hp]

theorem qNext_of_not_pop {s : State} (hq : s.qside = .closed) (hr : s.inp.rst = false) (hp : s.pop = false) :
    s.qNext = s.q ++ s.storedNow := by simp [State.qNext, hq, hr, hp]

/-- Without a pop Q keeps its frames, closed or left out. -/
theorem q_isPrefix_qNext {s : State} (hr : s.inp.rst = false) (hp : s.pop = false) : s.q <+: s.qNext := by
  cases hq : s.qside with
  | closed => rw [qNext_of_not_pop hq hr hp]; exact List.prefix_append ..
  | opened w => rw [State.qNext, hq]

/-! ### What a cycle without reset keeps (R87) -/

theorem heldRecord_of_idle {s : State} (hst : s.st = .idle) : heldRecord s = [] := by simp [heldRecord, hst]

theorem heldRecord_of_hold {s : State} (hst : s.st = .hold) : heldRecord s = s.h.toList := by simp [heldRecord, hst]

/-- The record held and the one accepted are the one emitted and the one held afterwards. -/
theorem heldRecord_conserved {s : State} (hr : s.inp.rst = false) :
    heldRecord s ++ s.acceptedNow = s.emittedNow ++ heldRecord s.cycled := by
  cases hst : s.st with
  | idle =>
    rw [heldRecord_of_idle hst, emittedNow_of_idle hst, List.nil_append, List.nil_append]
    cases hv : s.deqValid with
    | false => rw [acceptedNow_of_not_deqValid hv, heldRecord_of_idle (relay_of_wait hst hv hr).1]
    | true =>
      obtain ⟨hst', hh'⟩ := relay_of_accept hst hv hr
      rw [acceptedNow_of_accept hst hv hr, heldRecord_of_hold hst', cycled_h, hh']; rfl
  | hold =>
    rw [heldRecord_of_hold hst, acceptedNow_of_hold hst, List.append_nil]
    cases hw : s.inp.wrReady with
    | false =>
      obtain ⟨hst', hh'⟩ := relay_of_stall hst hw hr
      rw [emittedNow_of_stall hw, heldRecord_of_hold hst', cycled_h, hh', List.nil_append]
    | true => rw [emittedNow_of_emit hst hw hr, heldRecord_of_idle (relay_of_emit hst hw hr).1, List.append_nil]

/-- The frames in Q and the one stored are the one accepted and the ones in Q afterwards. -/
theorem q_conserved {s : State} (hq : s.qside = .closed) (hr : s.inp.rst = false) :
    s.q ++ s.storedNow = s.acceptedNow.map Hold.toFrame ++ s.cycled.q := by
  rw [cycled_q]
  cases hp : s.pop with
  | true =>
    obtain ⟨hst, hv, -⟩ := pop_iff.mp hp
    rw [acceptedNow_of_accept hst hv hr, qNext_of_pop hq hr hp, ← List.append_assoc]
    exact congrArg (· ++ s.storedNow) (q_eq_deqFrame_cons hq hv)
  | false =>
    have hnone : s.acceptedNow = [] := if_neg fun hacc => by simp [pop_iff.mpr hacc] at hp
    rw [hnone, qNext_of_not_pop hq hr hp]; rfl

theorem owned_eq_heldRecord (s : State) : s.owned = (heldRecord s).map Hold.toFrame := by
  unfold State.owned heldRecord
  cases s.st with
  | idle => rfl
  | hold => cases s.h <;> rfl

/-- The frames in the system and the one stored are the one written and the ones in the system afterwards. -/
theorem inFlight_conserved {s : State} (hq : s.qside = .closed) (hr : s.inp.rst = false) :
    s.inFlight ++ s.storedNow = s.emittedNow.map Hold.toFrame ++ s.cycled.inFlight := by
  rw [State.inFlight, State.inFlight, owned_eq_heldRecord, owned_eq_heldRecord]
  calc (heldRecord s).map Hold.toFrame ++ s.q ++ s.storedNow
      = (heldRecord s ++ s.acceptedNow).map Hold.toFrame ++ s.cycled.q := by
        rw [List.append_assoc, q_conserved hq hr, List.map_append, List.append_assoc]
    _ = s.emittedNow.map Hold.toFrame ++ ((heldRecord s.cycled).map Hold.toFrame ++ s.cycled.q) := by
        rw [heldRecord_conserved hr, List.map_append, List.append_assoc]

theorem heldRecord_length_le (s : State) : (heldRecord s).length ≤ 1 := by
  unfold heldRecord
  cases s.st with
  | idle => exact Nat.zero_le 1
  | hold => exact Option.length_toList_le

theorem emittedNow_length_le (s : State) : s.emittedNow.length ≤ 1 := by
  unfold State.emittedNow
  split
  · exact Nat.zero_le 1
  · split
    · exact Option.length_toList_le
    · exact Nat.zero_le 1

/-! ### The statements about RLY's steps (R81 to R87) -/

/-- Settles O22: a reset cycle always completes (`step_reset`), and neither ready nor valid is up in it. -/
theorem relayResetStep : Obligations.RelayResetStep := by
  refine ⟨fun s hr => ?selected, fun a b c s => rfl, fun s hr => ?cycle⟩
  case selected =>
    have hready : s.deqReady = false := by simp [State.deqReady, hr]
    exact ⟨⟨_, _, _, relayInstr_of_reset hr⟩, hready, by simp [State.wrValid, hr], pop_of_not_deqReady hready⟩
  case cycle =>
    obtain ⟨hst', hh'⟩ := relay_of_reset hr
    exact ⟨s.cycled, step_reset hr, hst', hh', by rw [cycled_lines, emittedNow_of_reset hr]; exact List.append_nil _⟩

/-- Settles O23: WAIT writes no register, and the cycle emits nothing from `IDLE`. -/
theorem relayWaitStep : Obligations.RelayWaitStep := by
  refine ⟨fun s hst hv hr => ⟨relayInstr_of_wait hst hv hr, deqReady_iff.mpr ⟨hst, hr⟩⟩, fun w s => rfl,
    fun s hst hv hr hd => ?cycle⟩
  case cycle =>
    obtain ⟨hst', hh'⟩ := relay_of_wait hst hv hr
    exact ⟨s.cycled, step_eq_cycled s (fun hold _ => by simp [hst] at hold) hd, hst', hh',
      by rw [cycled_lines, emittedNow_of_idle hst]; exact List.append_nil _⟩

/-- Settles O24: the handshake of ACCEPT is Q's pop, so the head goes into `h` and leaves `q` at one edge. -/
theorem relayAcceptStep : Obligations.RelayAcceptStep := by
  refine ⟨fun s => relayInstr_of_accept, fun w s => rfl, fun s f rest hq hst hs hr => ?cycle⟩
  case cycle =>
    have hv : s.deqValid = true := deqValid_of_cons hq hs
    have hf : s.deqFrame = f := deqFrame_of_cons hq hs
    obtain ⟨hst', hh'⟩ := relay_of_accept hst hv hr
    refine ⟨s.cycled, step_eq_cycled s (fun hold _ => by simp [hst] at hold) (dutyBroken_closed hq), hf,
      deqReady_iff.mpr ⟨hst, hr⟩, hst', ?record, ?queue⟩
    case record => rw [cycled_h, hh', State.sampled, hf]
    case queue => rw [cycled_q, qNext_of_pop hq hr (pop_iff.mpr ⟨hst, hv, hr⟩), hs]; rfl

/-- Settles O25: in `HOLD` nothing is popped, and the port is driven with the held line throughout. -/
theorem relayStallStep : Obligations.RelayStallStep := by
  refine ⟨fun s hst hw hr => ⟨relayInstr_of_stall hst hw hr, deqReady_of_hold hst,
    pop_of_not_deqReady (deqReady_of_hold hst)⟩, fun d s => rfl, fun s h hst hh hw hr hd => ?cycle⟩
  case cycle =>
    obtain ⟨hst', hh'⟩ := relay_of_stall hst hw hr
    refine ⟨s.cycled, step_eq_cycled s (fun _ _ => by rw [hh]; rfl) hd, hst', hh'.trans hh, ?lines,
      q_isPrefix_qNext hr (pop_of_not_deqReady (deqReady_of_hold hst)), ?valid, ?port⟩
    case lines => rw [cycled_lines, emittedNow_of_stall hw]; exact List.append_nil _
    case valid => exact (pins_wrValid s).trans (wrValid_iff.mpr ⟨hst, hr⟩)
    case port => rw [encodeSpec_eq_line]; exact pins_carriesLine hst hh

/-- Settles O26: the record emitted is the held one, and its line is what `cycled` appends. -/
theorem relayEmitStep : Obligations.RelayEmitStep := by
  refine ⟨fun s => relayInstr_of_emit, fun d s => rfl, fun s h hst hh hw hr hd => ?cycle⟩
  case cycle =>
    obtain ⟨hst', hh'⟩ := relay_of_emit hst hw hr
    refine ⟨s.cycled, step_eq_cycled s (fun _ _ => by rw [hh]; rfl) hd, hst', hh'.trans hh, ?lines,
      q_isPrefix_qNext hr (pop_of_not_deqReady (deqReady_of_hold hst))⟩
    case lines => rw [cycled_lines, emittedNow_of_emit hst hw hr, hh]; rfl

/-- Settles O46: without reset the frames are conserved (`inFlight_conserved`), and a reset leaves none. -/
theorem framesAreOwnedByExactlyOne : Obligations.FramesAreOwnedByExactlyOne := by
  refine fun s hI hq => ⟨s.cycled, step_closed hI hq, inFlight_conserved hq, fun hr => ?reset, ?owned⟩
  case reset =>
    obtain ⟨hst', -, hq'⟩ := cycled_of_reset hq hr
    rw [State.inFlight, State.owned, hst', hq']; rfl
  case owned => rw [owned_eq_heldRecord, List.length_map]; exact heldRecord_length_le s

end Sys2Proof.Machine
end

section
/-! SUPPORT. Finite runs of the closed system: the invariant is kept, so a run is `cycled` iterated, and what every cycle keeps, every run keeps (R44, R88). -/

namespace Sys2Proof.Machine

open Sys2Proof.Claims

/-! ### The invariant -/

/-- The frame stored fits into Q, since none is stored into a full one (R96 to R99). -/
theorem length_add_storedNow_le {s : State} (hlen : s.q.length ≤ Config.qdepth) :
    s.q.length + s.storedNow.length ≤ Config.qdepth := by
  unfold State.storedNow
  split
  · exact hlen
  · split
    next => exact hlen
    next hfull =>
      have hroom : s.q.length ≠ Config.qdepth := by simpa [State.full] using hfull
      have hone : s.inp.enq.toList.length ≤ 1 := Option.length_toList_le
      omega

theorem qNext_length_le {s : State} (hlen : s.q.length ≤ Config.qdepth) : s.qNext.length ≤ Config.qdepth := by
  have hfit := length_add_storedNow_le hlen
  cases hq : s.qside with
  | opened w => rwa [State.qNext, hq]
  | closed =>
    cases hr : s.inp.rst with
    | true => rw [show s.qNext = [] from (cycled_of_reset hq hr).2.2]; exact Nat.zero_le _
    | false =>
      cases hp : s.pop with
      | true => rw [qNext_of_pop hq hr hp, List.length_append, List.length_tail]; omega
      | false => rwa [qNext_of_not_pop hq hr hp, List.length_append]

theorem inv_cycled {s : State} (hI : s.Inv) : s.cycled.Inv := ⟨qNext_length_le hI.1, held_cycled hI.2⟩

/-! ### Runs -/

/-- No run of the closed system stops: it is `cycled`, once for each cycle (R100). -/
theorem runCycles_eq_iterate {s : State} (hI : s.Inv) (hq : s.qside = .closed) (n : Nat) :
    runCycles n s = .next (State.cycled^[n] s) := by
  induction n generalizing s with
  | zero => rfl
  | succ n ih => rw [runCycles_succ hI hq, ih (inv_cycled hI) (closed_cycled hq), Function.iterate_succ_apply]

theorem NoReset.cycled {n : Nat} {s : State} (h : NoReset (n + 1) s) : NoReset n s.cycled := fun k hk => by
  rw [inputAt_cycled]; exact h (k + 1) (Nat.succ_lt_succ hk)

theorem NoReset.now {n : Nat} {s : State} (h : NoReset (n + 1) s) : s.inp.rst = false := by
  rw [← inputAt_zero]; exact h 0 n.succ_pos

/-- A balance that every closed cycle without reset keeps is kept by every run: what was there and came in is, in order,
what went out and is still there. -/
theorem collect_conserved {α : Type} {store inflow outflow : State → List α}
    (balance : ∀ s, s.qside = .closed → s.inp.rst = false → store s ++ inflow s = outflow s ++ store s.cycled)
    {n : Nat} {s : State} (hI : s.Inv) (hq : s.qside = .closed) (hn : NoReset n s) :
    store s ++ collect inflow n s = collect outflow n s ++ store (State.cycled^[n] s) := by
  induction n generalizing s with
  | zero => exact List.append_nil _
  | succ n ih =>
    rw [Function.iterate_succ_apply, collect_succ inflow hI hq, collect_succ outflow hI hq]
    calc store s ++ (inflow s ++ collect inflow n s.cycled)
        = outflow s ++ (store s.cycled ++ collect inflow n s.cycled) := by
          rw [← List.append_assoc, balance s hq hn.now, List.append_assoc]
      _ = outflow s ++ collect outflow n s.cycled ++ store (State.cycled^[n] s.cycled) := by
          rw [ih (inv_cycled hI) (closed_cycled hq) hn.cycled, List.append_assoc]

theorem collect_map {α β : Type} (g : α → β) (f : State → List α) (n : Nat) (s : State) :
    collect (fun s => (f s).map g) n s = (collect f n s).map g := by
  induction n generalizing s with
  | zero => rfl
  | succ n ih =>
    rw [collect, collect, List.map_append]
    cases step s with
    | next t => exact congrArg _ (ih t)
    | fault e => rfl
    | refused e => rfl

theorem collect_nil {α : Type} (n : Nat) (s : State) : collect (fun _ => ([] : List α)) n s = [] := by
  induction n generalizing s with
  | zero => rfl
  | succ n ih =>
    rw [collect, List.nil_append]
    cases step s with
    | next t => exact ih t
    | fault e => rfl
    | refused e => rfl

/-- An observation that every closed cycle without reset extends holds, after a run, also what the run's cycles added. -/
theorem collect_logged {α : Type} {log added : State → List α}
    (adds : ∀ s, s.qside = .closed → s.inp.rst = false → log s.cycled = log s ++ added s)
    {n : Nat} {s : State} (hI : s.Inv) (hq : s.qside = .closed) (hn : NoReset n s) :
    log (State.cycled^[n] s) = log s ++ collect added n s := by
  have hbalance := collect_conserved (outflow := fun _ => []) (fun s hq hr => (adds s hq hr).symm) hI hq hn
  rw [hbalance, collect_nil, List.nil_append]

theorem cycled_dropped {s : State} (hq : s.qside = .closed) : s.cycled.dropped = s.dropped ++ s.droppedNow := by
  rw [State.cycled, State.droppedNext, hq]

/-- Settles O47: the balances of one cycle (`heldRecord_conserved`, `inFlight_conserved`) and what it adds to the lines
and drops, over a run. -/
theorem exactlyOnceAndInOrder : Obligations.ExactlyOnceAndInOrder := by
  refine ⟨emittedNow_length_le, fun n s hI hq hn =>
    ⟨State.cycled^[n] s, runCycles_eq_iterate hI hq n, ?records, ?lines, ?frames, ?drops⟩⟩
  case records => exact collect_conserved (store := heldRecord) (fun s _ => heldRecord_conserved) hI hq hn
  case lines => rw [← collect_map]; exact collect_logged (fun s _ _ => cycled_lines s) hI hq hn
  case frames => rw [← collect_map]; exact collect_conserved (fun s => inFlight_conserved) hI hq hn
  case drops => exact collect_logged (fun s hq _ => cycled_dropped hq) hI hq hn

end Sys2Proof.Machine
end

section
/-! SUPPORT. Infinite runs of the closed system (41_relay.md R89, 60_exceptions.md R109): every environment has one, a held record waits for the first cycle SINK is ready in, and Q's frames are taken from the head. -/

namespace Sys2Proof.Machine

variable {env : Nat → CycleInputs} {r : Nat → State}

/-! ### Every environment has a run -/

/-- The states an environment leads to from a given one. -/
def runFrom (env : Nat → CycleInputs) (s : State) : Nat → State
  | 0 => s
  | k + 1 => ((runFrom env s k).withRow (env k)).cycled

theorem runFrom_inv_closed (env : Nat → CycleInputs) {s : State} (hI : s.Inv) (hq : s.qside = .closed) :
    ∀ k, (runFrom env s k).Inv ∧ (runFrom env s k).qside = .closed
  | 0 => ⟨hI, hq⟩
  | k + 1 =>
    have ⟨hIk, hqk⟩ := runFrom_inv_closed env hI hq k
    ⟨inv_cycled (s := cycleOf env (runFrom env s) k) hIk, closed_cycled (s := cycleOf env (runFrom env s) k) hqk⟩

theorem isRun_runFrom (env : Nat → CycleInputs) {s : State} (hI : s.Inv) (hq : s.qside = .closed) :
    IsRun env (runFrom env s) := fun k =>
  have ⟨hIk, hqk⟩ := runFrom_inv_closed env hI hq k
  step_closed (s := cycleOf env (runFrom env s) k) hIk hqk

/-- Every state of a run of the closed system meets the invariant. -/
theorem IsRun.inv_closed (hrun : IsRun env r) (hI : (r 0).Inv) (hq : (r 0).qside = .closed) :
    ∀ k, (r k).Inv ∧ (r k).qside = .closed :=
  hrun.induction (P := fun s => s.Inv ∧ s.qside = .closed) ⟨hI, hq⟩ fun s t c ⟨hIs, hqs⟩ hstep => by
    obtain rfl := step_next_inv hstep
    exact ⟨inv_cycled (s := s.withRow c) hIs, closed_cycled (s := s.withRow c) hqs⟩

/-! ### A held record is emitted in the first cycle SINK is ready in (R85, R86) -/

theorem exists_first_ready {k : Nat} (h : ∃ j, k ≤ j ∧ (env j).wrReady = true) :
    ∃ j, k ≤ j ∧ (env j).wrReady = true ∧ ∀ i, k ≤ i → i < j → (env i).wrReady = false := by
  obtain ⟨hk, hready⟩ := Nat.find_spec h
  exact ⟨Nat.find h, hk, hready, fun i hki hi => by simpa [hki] using Nat.find_min h hi⟩

/-- While SINK stalls, RLY holds its record. -/
theorem IsRun.hold_while_stalled (hrun : IsRun env r) {k j : Nat} {h : Hold} (hst : (r k).st = .hold)
    (hh : (r k).h = some h) (hrst : ∀ i, k ≤ i → (env i).rst = false)
    (hstall : ∀ i, k ≤ i → i < j → (env i).wrReady = false) :
    ∀ i, k ≤ i → i ≤ j → (r i).st = .hold ∧ (r i).h = some h := by
  intro i hki
  induction i, hki using Nat.le_induction with
  | base => exact fun _ => ⟨hst, hh⟩
  | succ i hki ih =>
    intro hij
    obtain ⟨hsti, hhi⟩ := ih (Nat.le_of_succ_le hij)
    obtain ⟨hst', hh'⟩ := relay_of_stall (s := cycleOf env r i) hsti (hstall i hki hij) (hrst i hki)
    rw [hrun.succ_eq i]
    exact ⟨hst', hh'.trans hhi⟩

/-- A record held in cycle `k` is held through the cycle that emits it, and no other is emitted before. -/
theorem IsRun.held_is_emitted (hrun : IsRun env r) (hfair : SinkFair env r) {k : Nat} {h : Hold}
    (hst : (r k).st = .hold) (hh : (r k).h = some h) (hrst : ∀ i, k ≤ i → (env i).rst = false) :
    ∃ j, k ≤ j ∧ (cycleOf env r j).emittedNow = [h] ∧ (r (j + 1)).st = .idle ∧
      (∀ i, k ≤ i → i < j → (cycleOf env r i).emittedNow = []) ∧ ∀ i, k ≤ i → i ≤ j → (r i).st = .hold := by
  obtain ⟨j, hkj, hready, hstall⟩ := exists_first_ready (hfair k hrst hst)
  have hheld := hrun.hold_while_stalled hst hh hrst hstall
  obtain ⟨hstj, hhj⟩ := hheld j hkj le_rfl
  have hemit : (cycleOf env r j).emittedNow = (r j).h.toList := emittedNow_of_emit hstj hready (hrst j hkj)
  refine ⟨j, hkj, ?emitted, ?idle, fun i hki hij => emittedNow_of_stall (hstall i hki hij),
    fun i hki hij => (hheld i hki hij).1⟩
  case emitted => rw [hemit, hhj]; rfl
  case idle => rw [hrun.succ_eq j]; exact (relay_of_emit (s := cycleOf env r j) hstj hready (hrst j hkj)).1

/-! ### Q's frames are taken in order (R88, R89) -/

/-- The records accepted in the `n` cycles from cycle `k` on. -/
def acceptedFrom (env : Nat → CycleInputs) (r : Nat → State) (k n : Nat) : List Hold :=
  (List.range n).flatMap fun m => (cycleOf env r (k + m)).acceptedNow

theorem acceptedFrom_add (k m n : Nat) :
    acceptedFrom env r k (m + n) = acceptedFrom env r k m ++ acceptedFrom env r (k + m) n := by
  simp [acceptedFrom, List.range_add, List.flatMap_map, Nat.add_assoc]

theorem acceptedFrom_one (k : Nat) : acceptedFrom env r k 1 = (cycleOf env r k).acceptedNow := List.append_nil _

theorem acceptedFrom_of_hold {k n : Nat} (h : ∀ i, k ≤ i → i < k + n → (r i).st = .hold) :
    acceptedFrom env r k n = [] := by
  rw [acceptedFrom, List.flatMap_eq_nil_iff]
  intro m hm
  exact acceptedNow_of_hold (h (k + m) (Nat.le_add_right k m) (Nat.add_lt_add_left (List.mem_range.mp hm) k))

section
variable (hrun : IsRun env r) (hclosed : ∀ k, (r k).qside = .closed) (hrst : ∀ k, (env k).rst = false)
include hrun hclosed hrst

/-- The frames Q holds are, in order, those accepted in the next cycles and then the first of those Q holds after them. -/
theorem q_isPrefix_accepted_append_q (k n : Nat) :
    (r k).q <+: (acceptedFrom env r k n).map Hold.toFrame ++ (r (k + n)).q := by
  induction n with
  | zero => exact List.prefix_rfl
  | succ n ih =>
    have hcycle : (r (k + n)).q <+: (cycleOf env r (k + n)).acceptedNow.map Hold.toFrame ++ (r (k + n + 1)).q := by
      rw [hrun.succ_eq (k + n)]
      exact ⟨_, q_conserved (s := cycleOf env r (k + n)) (hclosed (k + n)) (hrst (k + n))⟩
    rw [acceptedFrom_add, acceptedFrom_one, List.map_append, List.append_assoc]
    exact ih.trans ((List.prefix_append_right_inj _).mpr hcycle)

omit hrun in
theorem acceptedNow_of_idle {k : Nat} (hst : (r k).st = .idle) (hne : (r k).q ≠ []) :
    (cycleOf env r k).acceptedNow = [(cycleOf env r k).sampled] := by
  have hv : (cycleOf env r k).deqValid = true := by
    rw [deqValid_closed (s := cycleOf env r k) (hclosed k)]
    exact decide_eq_true (List.length_pos_iff.mpr hne)
  exact acceptedNow_of_accept hst hv (hrst k)

/-- While Q holds a frame, a record is accepted in this cycle or a later one. -/
theorem exists_next_accept (hfair : SinkFair env r) (hheld : ∀ k, (r k).st = .hold → (r k).h.isSome = true) {k : Nat}
    (hne : (r k).q ≠ []) :
    ∃ n h, acceptedFrom env r k n = [] ∧ (cycleOf env r (k + n)).acceptedNow = [h] := by
  cases hst : (r k).st with
  | idle => exact ⟨0, _, rfl, acceptedNow_of_idle hclosed hrst hst hne⟩
  | hold =>
    obtain ⟨h, hh⟩ := Option.isSome_iff_exists.mp (hheld k hst)
    obtain ⟨j, hkj, -, hidle, -, hhold⟩ := hrun.held_is_emitted hfair hst hh fun i _ => hrst i
    obtain ⟨d, rfl⟩ := Nat.exists_eq_add_of_le hkj
    have hnone : acceptedFrom env r k (d + 1) = [] :=
      acceptedFrom_of_hold fun i hki hi => hhold i hki (Nat.le_of_lt_succ hi)
    have hkept : (r k).q <+: (r (k + (d + 1))).q := by
      simpa [hnone] using q_isPrefix_accepted_append_q hrun hclosed hrst k (d + 1)
    have hne' : (r (k + (d + 1))).q ≠ [] := fun hempty => hne (List.prefix_nil.mp (hempty ▸ hkept))
    exact ⟨d + 1, _, hnone, acceptedNow_of_idle hclosed hrst hidle hne'⟩

/-- The record accepted next is of Q's head, and the frames behind it stay in Q. -/
theorem exists_accept_of_cons (hfair : SinkFair env r) (hheld : ∀ k, (r k).st = .hold → (r k).h.isSome = true)
    {k : Nat} {g : Frame} {rest : List Frame} (hcons : (r k).q = g :: rest) :
    ∃ n h later, (cycleOf env r (k + n)).acceptedNow = [h] ∧ h.toFrame = g ∧ acceptedFrom env r k n = [] ∧
      acceptedFrom env r k (n + 1) = [h] ∧ (r (k + (n + 1))).q = rest ++ later := by
  obtain ⟨n, h, hnone, hacc⟩ := exists_next_accept hrun hclosed hrst hfair hheld (by simp [hcons] : (r k).q ≠ [])
  have hone : acceptedFrom env r k (n + 1) = [h] := by rw [acceptedFrom_add, hnone, acceptedFrom_one, hacc]; rfl
  have hkept := q_isPrefix_accepted_append_q hrun hclosed hrst k (n + 1)
  rw [hone, hcons] at hkept
  obtain ⟨hhead, later, hlater⟩ := List.cons_prefix_cons.mp hkept
  exact ⟨n, h, later, hacc, hhead.symm, hnone, hone, hlater.symm⟩

/-- The frame at place `i` of Q is accepted, after exactly the `i` frames ahead of it. -/
theorem exists_accept_of_getElem? (hfair : SinkFair env r) (hheld : ∀ k, (r k).st = .hold → (r k).h.isSome = true)
    {k i : Nat} {f : Frame} (hf : (r k).q[i]? = some f) :
    ∃ n h, (cycleOf env r (k + n)).acceptedNow = [h] ∧ h.toFrame = f ∧
      (acceptedFrom env r k n).map Hold.toFrame = (r k).q.take i := by
  induction i generalizing k with
  | zero =>
    obtain ⟨rest, hcons⟩ := List.head?_eq_some_iff.mp ((List.head?_eq_getElem? ..).trans hf)
    obtain ⟨n, h, -, hacc, hh, hnone, -⟩ := exists_accept_of_cons hrun hclosed hrst hfair hheld hcons
    exact ⟨n, h, hacc, hh, by rw [hnone]; rfl⟩
  | succ i ih =>
    cases hcons : (r k).q with
    | nil => simp [hcons] at hf
    | cons g rest =>
      obtain ⟨n, h, later, -, hh, -, hone, hlater⟩ := exists_accept_of_cons hrun hclosed hrst hfair hheld hcons
      have hrest : rest[i]? = some f := by simpa [hcons] using hf
      have hi : i < rest.length := (List.getElem?_eq_some_iff.mp hrest).1
      have hf' : (r (k + (n + 1))).q[i]? = some f := by rw [hlater, List.getElem?_append_left hi, hrest]
      obtain ⟨n', h', hacc', hh', hahead⟩ := ih hf'
      refine ⟨n + 1 + n', h', by rwa [← Nat.add_assoc k], hh', ?_⟩
      rw [acceptedFrom_add, hone, List.map_append, hahead, hlater, List.take_append_of_le_length (Nat.le_of_lt hi),
        List.take_succ_cons, ← hh]
      rfl
end

/-- Settles O58: a run is built cycle by cycle (`runFrom`); a fair SINK takes every held line, so RLY comes back to
`IDLE` and takes Q's head (`held_is_emitted`, `exists_accept_of_getElem?`). -/
theorem fairRunsMakeProgress : Obligations.FairRunsMakeProgress := by
  refine ⟨fun env s hI hq => ⟨runFrom env s, rfl, isRun_runFrom env hI hq⟩,
    fun env r hrun hI hq hrst hfair => ⟨fun k h ha => ?emit, fun k i f hf => ?take⟩⟩
  case emit =>
    obtain ⟨hst, hv, hr, rfl⟩ := acceptedNow_eq_singleton ha
    obtain ⟨hst', hh'⟩ : (r (k + 1)).st = .hold ∧ (r (k + 1)).h = some (cycleOf env r k).sampled := by
      rw [hrun.succ_eq k]; exact relay_of_accept hst hv hr
    obtain ⟨j, hkj, hemit, -, hbefore, -⟩ := hrun.held_is_emitted hfair hst' hh' fun i _ => hrst i
    refine ⟨j, hkj, hemit, fun i hki hij => ?_⟩
    obtain rfl | hlt := hki.eq_or_lt
    · exact emittedNow_of_idle hst
    · exact hbefore i hlt hij
  case take =>
    have hgood := hrun.inv_closed hI hq
    obtain ⟨n, h, hacc, hh, hahead⟩ :=
      exists_accept_of_getElem? hrun (fun k => (hgood k).2) hrst hfair (fun k => (hgood k).1.2) hf
    exact ⟨k + n, h, Nat.le_add_right k n, hacc, hh, by rwa [Nat.add_sub_cancel_left]⟩

end Sys2Proof.Machine
end

section
/-! SUPPORT. Q's part of one cycle, step by step (42_queue.md R91 to R99): the step its selector picks, the frame it stores or drops, and the frame it hands to RLY. -/

namespace Sys2Proof.Machine

/-! ### The step Q takes (R92) -/

/-- The step picked when the bits of `qsel` are known. -/
theorem queueInstr_eq_decode {s : State} {rst push pop full : Bool} (hq : s.qside = .closed) (hr : s.inp.rst = rst)
    (hpush : s.push = push) (hpop : s.pop = pop) (hfull : s.full = full) :
    s.queueInstr = some (decode (.qsel (bits4 rst push pop full))) := by
  rw [queueInstr_closed hq, State.qsel, hr, hpush, hpop, hfull]

theorem decode_qsel_reset (push pop full : Bool) : decode (.qsel (bits4 true push pop full)) = .qReset push pop full := by
  revert push pop full; decide

theorem decode_qsel_hold (full : Bool) : decode (.qsel (bits4 false false false full)) = .qHold full := by
  revert full; decide

theorem decode_qsel_pop (full : Bool) : decode (.qsel (bits4 false false true full)) = .qPop full := by
  revert full; decide

theorem push_of_no_offer {s : State} (he : s.inp.enq = none) : s.push = false := by rw [State.push, he]; rfl

theorem push_of_offer {s : State} {f : Frame} (he : s.inp.enq = some f) : s.push = true := by rw [State.push, he]; rfl

theorem enqFrame_of_offer {s : State} {f : Frame} (he : s.inp.enq = some f) : s.enqFrame = f := by
  rw [State.enqFrame, he]; rfl

theorem full_iff {s : State} : s.full = true ↔ s.q.length = 20 := decide_eq_true_iff

theorem full_of_length_lt {s : State} (hlen : s.q.length < 20) : s.full = false := decide_eq_false (Nat.ne_of_lt hlen)

/-! ### The frame stored and the frame dropped -/

/-- Without reset an offer is stored unless Q is full before the edge (R96, R98). -/
theorem storedNow_of_running {s : State} (hr : s.inp.rst = false) :
    s.storedNow = if s.q.length = 20 then [] else s.inp.enq.toList := by
  simp [State.storedNow, hr, full_iff]

/-- Without reset an offer to a Q that is full before the edge is dropped (R97, R99). -/
theorem droppedNow_of_running {s : State} (hr : s.inp.rst = false) :
    s.droppedNow = if s.q.length = 20 then s.inp.enq.toList else [] := by
  simp [State.droppedNow, hr, full_iff]

theorem droppedNow_of_reset {s : State} (hr : s.inp.rst = true) : s.droppedNow = [] := if_pos hr

theorem storedNow_of_no_offer {s : State} (hr : s.inp.rst = false) (he : s.inp.enq = none) : s.storedNow = [] := by
  rw [storedNow_of_running hr, he]; exact ite_self _

theorem droppedNow_of_no_offer {s : State} (hr : s.inp.rst = false) (he : s.inp.enq = none) : s.droppedNow = [] := by
  rw [droppedNow_of_running hr, he]; exact ite_self _

theorem storedNow_of_room {s : State} {f : Frame} (hr : s.inp.rst = false) (he : s.inp.enq = some f)
    (hlen : s.q.length < 20) : s.storedNow = [f] := by
  rw [storedNow_of_running hr, if_neg (Nat.ne_of_lt hlen), he]; rfl

theorem storedNow_of_full {s : State} (hr : s.inp.rst = false) (hlen : s.q.length = 20) : s.storedNow = [] := by
  rw [storedNow_of_running hr, if_pos hlen]

theorem droppedNow_of_full {s : State} {f : Frame} (hr : s.inp.rst = false) (he : s.inp.enq = some f)
    (hlen : s.q.length = 20) : s.droppedNow = [f] := by
  rw [droppedNow_of_running hr, if_pos hlen, he]; rfl

/-! ### A cycle with a pop -/

/-- A pop happens in `IDLE`, where no record is read: such a cycle completes in every closed state. -/
theorem step_of_pop {s : State} (hq : s.qside = .closed) (hp : s.pop = true) : step s = .next s.cycled :=
  step_eq_cycled s (fun hold _ => by simp [(pop_iff.mp hp).1] at hold) (dutyBroken_closed hq)

/-- The frame popped is the one RLY holds after the edge (R84, R95). -/
theorem cycled_h_of_pop {s : State} (hq : s.qside = .closed) (hp : s.pop = true) :
    s.cycled.h.map Hold.toFrame = s.q.head? := by
  obtain ⟨hst, hv, hr⟩ := pop_iff.mp hp
  rw [cycled_h, (relay_of_accept hst hv hr).2, q_eq_deqFrame_cons hq hv]; rfl

theorem length_pos_of_pop {s : State} (hq : s.qside = .closed) (hp : s.pop = true) : 0 < s.q.length :=
  of_decide_eq_true ((deqValid_closed hq).symm.trans (pop_iff.mp hp).2.1)

theorem pop_iff_of_running {s : State} (hq : s.qside = .closed) (hr : s.inp.rst = false) :
    s.pop = true ↔ s.st = .idle ∧ s.q ≠ [] := by
  rw [pop_iff, deqValid_closed hq, decide_eq_true_iff, List.length_pos_iff]
  exact and_congr_right fun _ => and_iff_left hr

/-! ### An offer to a full Q -/

/-- The cycle with the same inputs but for PROD's offer. -/
def State.withoutOffer (s : State) : State := s.withRow { s.inp with enq := none }

theorem withoutOffer_of_script {s : State} {c : CycleInputs} {cs : List CycleInputs} (hs : s.script = c :: cs) :
    { s with script := { c with enq := none } :: cs } = s.withoutOffer := by
  simp [State.withoutOffer, State.withRow, State.inp, hs]

/-- A full Q stores nothing, so an offer to it reaches no register: only the record of drops tells (R97). -/
theorem cycled_of_full_eq_withoutOffer {s : State} (hr : s.inp.rst = false) (hlen : s.q.length = 20) :
    s.cycled = { s.withoutOffer.cycled with dropped := s.cycled.dropped } := by
  have hstored : s.withoutOffer.storedNow = s.storedNow := by
    rw [storedNow_of_full hr hlen, storedNow_of_full (s := s.withoutOffer) hr hlen]
  have hqueue : s.withoutOffer.qNext = s.qNext := by rw [State.qNext, State.qNext, hstored]; rfl
  rw [State.cycled, State.cycled, hqueue]; rfl

/-! ### The statements about Q's steps (R91 to R99) -/

/-- Settles O27: a reset cycle always completes (`step_reset`), and neither Q nor RLY records anything in it. -/
theorem queueResetStep : Obligations.QueueResetStep := by
  refine ⟨fun s hq hr => ⟨⟨s.push, s.pop, s.full, ?selected⟩, ?noPop⟩, fun a b c s => rfl, fun s hq hr => ?cycle⟩
  case selected => rw [queueInstr_eq_decode hq hr rfl rfl rfl, decode_qsel_reset]
  case noPop => exact pop_of_not_deqReady (by simp [State.deqReady, hr])
  case cycle =>
    refine ⟨s.cycled, step_reset hr, (cycled_of_reset hq hr).2.2, ?lines, ?drops⟩
    case lines => rw [cycled_lines, emittedNow_of_reset hr]; exact List.append_nil _
    case drops => rw [cycled_dropped hq, droppedNow_of_reset hr, List.append_nil]

/-- Settles O28: with no offer nothing is stored or dropped, and with no pop nothing leaves. -/
theorem queueHoldStep : Obligations.QueueHoldStep := by
  refine ⟨fun s hq hr he hp => ?selected, fun x s => rfl,
    fun s hI hq hr he hp => ⟨s.cycled, step_closed hI hq, ?queue, ?drops⟩⟩
  case selected => rw [queueInstr_eq_decode hq hr (push_of_no_offer he) hp rfl, decode_qsel_hold]
  case queue => rw [cycled_q, qNext_of_not_pop hq hr hp, storedNow_of_no_offer hr he, List.append_nil]
  case drops => rw [cycled_dropped hq, droppedNow_of_no_offer hr he, List.append_nil]

/-- Settles O29: the pop is RLY's ACCEPT, so the head is in `h` after the edge (`cycled_h_of_pop`). -/
theorem queuePopStep : Obligations.QueuePopStep := by
  unfold Obligations.QueuePopStep
  simp only [List.drop_one]
  refine ⟨fun s hq hr he hp => ⟨?selected, length_pos_of_pop hq hp⟩, fun x s => rfl, fun s hq hr he hp => ?cycle⟩
  case selected => rw [queueInstr_eq_decode hq hr (push_of_no_offer he) hp rfl, decode_qsel_pop]
  case cycle =>
    have hqueue : s.cycled.q = s.q.tail := by
      rw [cycled_q, qNext_of_pop hq hr hp, storedNow_of_no_offer hr he, List.append_nil]
    refine ⟨s.cycled, step_of_pop hq hp, hqueue, cycled_h_of_pop hq hp, fun hlen => ?left, fun hlen => ?last⟩
    case left => rw [hqueue, List.length_tail, hlen]
    case last => rw [deqValid_closed (closed_cycled hq), hqueue, List.length_tail, hlen]; rfl

/-- Settles O30: the frame is stored at the edge, so it is offered from the next cycle on. -/
theorem queuePushStep : Obligations.QueuePushStep := by
  refine ⟨fun s f hq hr he hp hlen => ⟨?selected, enqFrame_of_offer he⟩, fun s => rfl,
    fun s f hI hq hr he hp hlen => ?cycle⟩
  case selected => exact queueInstr_eq_decode hq hr (push_of_offer he) hp (full_of_length_lt hlen)
  case cycle =>
    have hqueue : s.cycled.q = s.q ++ [f] := by
      rw [cycled_q, qNext_of_not_pop hq hr hp, storedNow_of_room hr he hlen]
    refine ⟨s.cycled, step_closed hI hq, hqueue, ?valid, fun hnil => ⟨?before, ?after⟩, fun h19 => ?full⟩
    case valid =>
      rw [deqValid_closed (closed_cycled hq), hqueue, List.length_append]
      exact decide_eq_true (Nat.succ_pos _)
    case before => rw [deqValid_closed hq, hnil]; rfl
    case after => exact deqFrame_of_cons (closed_cycled hq) (by rw [hqueue, hnil]; rfl)
    case full => exact full_iff.mpr (by rw [hqueue, List.length_append, h19]; rfl)

/-- Settles O31: the cycle without the offer differs only in the record of drops (`cycled_of_full_eq_withoutOffer`). -/
theorem queueDropStep : Obligations.QueueDropStep := by
  refine ⟨fun s f hq hr he hp hlen => ⟨?selected, enqFrame_of_offer he⟩, fun s => rfl,
    fun s f c cs hI hq hs hr he hp hlen => ?cycle⟩
  case selected => exact queueInstr_eq_decode hq hr (push_of_offer he) hp (full_iff.mpr hlen)
  case cycle =>
    obtain rfl : s.inp = c := by rw [State.inp, hs]
    rw [withoutOffer_of_script hs]
    refine ⟨s.cycled, s.withoutOffer.cycled, step_closed hI hq, ?queue, ?drops, step_closed hI hq, ?noDrops,
      cycled_of_full_eq_withoutOffer hr hlen⟩
    case queue => rw [cycled_q, qNext_of_not_pop hq hr hp, storedNow_of_full hr hlen, List.append_nil]
    case drops => rw [cycled_dropped hq, droppedNow_of_full hr he hlen]
    case noDrops =>
      rw [cycled_dropped (s := s.withoutOffer) hq, droppedNow_of_no_offer (s := s.withoutOffer) hr rfl]
      exact List.append_nil _

/-- Settles O32: the head leaves and the offer is appended, at one edge. -/
theorem queuePushPopStep : Obligations.QueuePushPopStep := by
  unfold Obligations.QueuePushPopStep
  simp only [List.drop_one]
  refine ⟨fun s f hq hr he hp hlen => ⟨?selected, enqFrame_of_offer he⟩, fun s => rfl, fun s f hq hr he hp hlen => ?cycle⟩
  case selected => exact queueInstr_eq_decode hq hr (push_of_offer he) hp (full_of_length_lt hlen)
  case cycle =>
    have hqueue : s.cycled.q = s.q.tail ++ [f] := by
      rw [cycled_q, qNext_of_pop hq hr hp, storedNow_of_room hr he hlen]
    refine ⟨s.cycled, step_of_pop hq hp, hqueue, cycled_h_of_pop hq hp, fun hone => ?last⟩
    case last =>
      obtain ⟨g, hg⟩ := List.length_eq_one_iff.mp hone
      rw [hqueue, hg]; rfl

/-- Settles O33: the offer is dropped, since fullness is judged before the head leaves. -/
theorem queueDropPopStep : Obligations.QueueDropPopStep := by
  unfold Obligations.QueueDropPopStep
  simp only [List.drop_one]
  refine ⟨fun s f hq hr he hp hlen => ⟨?selected, enqFrame_of_offer he⟩, fun s => rfl, fun s f hq hr he hp hlen => ?cycle⟩
  case selected => exact queueInstr_eq_decode hq hr (push_of_offer he) hp (full_iff.mpr hlen)
  case cycle =>
    have hqueue : s.cycled.q = s.q.tail := by
      rw [cycled_q, qNext_of_pop hq hr hp, storedNow_of_full hr hlen, List.append_nil]
    refine ⟨s.cycled, step_of_pop hq hp, hqueue, ?left, cycled_h_of_pop hq hp, ?drops⟩
    case left => rw [hqueue, List.length_tail, hlen]
    case drops => rw [cycled_dropped hq, droppedNow_of_full hr he hlen]

/-- Settles O40: the pop first, then what `storedNow` and `droppedNow` say of the offer by the length before the edge. -/
theorem queueTakesOnePopThenOnePush : Obligations.QueueTakesOnePopThenOnePush := by
  unfold Obligations.QueueTakesOnePopThenOnePush
  simp only [List.drop_one]
  refine ⟨fun s => queueInstr_closed, fun s hI hq hr => ⟨s.cycled, step_closed hI hq, ?queue, ?drops⟩⟩
  case queue =>
    rw [cycled_q, ← storedNow_of_running hr]
    cases hp : s.pop with
    | true => rw [qNext_of_pop hq hr hp, if_pos ((pop_iff_of_running hq hr).mp hp)]
    | false =>
      have hno : ¬(s.st = .idle ∧ s.q ≠ []) := fun h => by simp [(pop_iff_of_running hq hr).mpr h] at hp
      rw [qNext_of_not_pop hq hr hp, if_neg hno]
  case drops => rw [cycled_dropped hq, droppedNow_of_running hr]

/-- Settles O41: without a pop frames are only appended, so Q keeps its head. -/
theorem queueHeadStaysOffered : Obligations.QueueHeadStaysOffered := by
  refine fun s hq => ⟨deqValid_closed hq, fun f rest => deqFrame_of_cons hq, fun t hstep hv hp hr => ?stays⟩
  case stays =>
    obtain rfl := step_next_inv hstep
    have hqueue : s.cycled.q = s.deqFrame :: (s.q.tail ++ s.storedNow) := by
      rw [cycled_q, qNext_of_not_pop hq hr hp]
      exact congrArg (· ++ s.storedNow) (q_eq_deqFrame_cons hq hv)
    exact ⟨deqValid_of_cons (closed_cycled hq) hqueue, deqFrame_of_cons (closed_cycled hq) hqueue⟩

end Sys2Proof.Machine
end

section
/-! SUPPORT. Exceptions and the environment (60_exceptions.md): no cycle fails (R100), simultaneous events are ordered (R103), and SINK's fairness duty (R109). -/

namespace Sys2Proof.Machine

open Sys2Proof.Claims

/-! ### Totality (R100) -/

theorem iterate_cycled_inv_closed {s : State} (hI : s.Inv) (hq : s.qside = .closed) (n : Nat) :
    (State.cycled^[n] s).Inv ∧ (State.cycled^[n] s).qside = .closed := by
  induction n with
  | zero => exact ⟨hI, hq⟩
  | succ n ih =>
    obtain ⟨hIn, hqn⟩ := ih
    rw [Function.iterate_succ_apply']
    exact ⟨inv_cycled hIn, closed_cycled hqn⟩

theorem iterate_cycled_cycle (n : Nat) (s : State) : (State.cycled^[n] s).cycle = s.cycle + n := by
  have hcount : Function.Semiconj State.cycle State.cycled Nat.succ := fun _ => rfl
  rw [(hcount.iterate_right n).eq, Nat.succ_iterate]

/-- Settles O38: a run is `cycled` iterated, and `cycled` keeps the invariant and the closed Q. -/
theorem noCycleEverFails : Obligations.NoCycleEverFails := by
  intro n s hI hq
  obtain ⟨hI', hq'⟩ := iterate_cycled_inv_closed hI hq n
  exact ⟨State.cycled^[n] s, runCycles_eq_iterate hI hq n, hI', hq', iterate_cycled_cycle n s⟩

/-! ### Simultaneous events (R103) -/

theorem cycled_lines_of_no_emit {s : State} (hnone : s.emittedNow = []) : s.cycled.lines = s.lines := by
  rw [cycled_lines, hnone]; exact List.append_nil _

/-- A reset cycle adds nothing to the observation, whatever is offered in it. -/
theorem cycled_observation_of_reset {s : State} (hq : s.qside = .closed) (hr : s.inp.rst = true) :
    s.cycled.lines = s.lines ∧ s.cycled.dropped = s.dropped :=
  ⟨cycled_lines_of_no_emit (emittedNow_of_reset hr),
    by rw [cycled_dropped hq, droppedNow_of_reset hr, List.append_nil]⟩

/-- The dequeue handshake needs `IDLE`, the write handshake `HOLD`. -/
theorem not_pop_and_wrValid (s : State) : ¬(s.pop = true ∧ s.wrValid = true) := by
  rintro ⟨hp, hv⟩
  have hidle : s.st = .idle := (pop_iff.mp hp).1
  have hhold : s.st = .hold := (wrValid_iff.mp hv).1
  exact absurd (hidle.symm.trans hhold) (by decide)

theorem droppedNow_of_room {s : State} (hr : s.inp.rst = false) (hlen : s.q.length < 20) : s.droppedNow = [] := by
  rw [droppedNow_of_running hr, if_neg (Nat.ne_of_lt hlen)]

/-- Settles O42: reset cycles by `cycled_of_reset`; a pop takes Q's head, and the offer is stored or dropped by the
length before the edge (`storedNow_of_room`, `droppedNow_of_full`). -/
theorem simultaneousEventsAreOrdered : Obligations.SimultaneousEventsAreOrdered := by
  unfold Obligations.SimultaneousEventsAreOrdered
  simp only [List.drop_one]
  refine ⟨fun s hq hr => ?reset, not_pop_and_wrValid, fun s f hq hr hp he =>
    ⟨s.cycled, step_of_pop hq hp, cycled_h_of_pop hq hp, fun hlen => ⟨?stored, ?kept⟩, fun hlen => ⟨?popped, ?drops⟩⟩⟩
  case reset =>
    obtain ⟨hst', hh', hq'⟩ := cycled_of_reset hq hr
    exact ⟨s.cycled, step_reset hr, hst', hh', hq', cycled_observation_of_reset hq hr⟩
  case stored => rw [cycled_q, qNext_of_pop hq hr hp, storedNow_of_room hr he hlen]
  case kept => rw [cycled_dropped hq, droppedNow_of_room hr hlen, List.append_nil]
  case popped => rw [cycled_q, qNext_of_pop hq hr hp, storedNow_of_full hr hlen, List.append_nil]
  case drops => rw [cycled_dropped hq, droppedNow_of_full hr he hlen]

/-! ### SINK's fairness duty (R109) -/

variable {env : Nat → CycleInputs} {r : Nat → State}

theorem IsRun.lines_while_stalled (hrun : IsRun env r) {k j : Nat}
    (hstall : ∀ i, k ≤ i → i < j → (env i).wrReady = false) :
    ∀ i, k ≤ i → i ≤ j → (r i).lines = (r k).lines := by
  intro i hki
  induction i, hki using Nat.le_induction with
  | base => exact fun _ => rfl
  | succ i hki ih =>
    intro hij
    have hnone : (cycleOf env r i).emittedNow = [] := emittedNow_of_stall (hstall i hki hij)
    rw [hrun.succ_eq i, cycled_lines_of_no_emit hnone]
    exact ih (Nat.le_of_succ_le hij)

/-- The write handshake appends `Encode` of the held record, and these are the bytes the port carries (R41, R86). -/
theorem cycled_of_write_handshake {s : State} {h : Hold} (hst : s.st = .hold) (hh : s.h = some h)
    (hw : s.inp.wrReady = true) (hr : s.inp.rst = false) :
    s.cycled.lines = s.lines ++ [encodeSpec h] ∧ s.cycled.out.written = encodeSpec h := by
  constructor
  · rw [cycled_lines, emittedNow_of_emit hst hw hr, hh]; rfl
  · rw [cycled_out, pins_written s hst hh, encodeSpec_eq_line]

theorem sinkFair_of_infinitely_often_ready (hready : ∀ n, ∃ j, n ≤ j ∧ (env j).wrReady = true) : SinkFair env r :=
  fun k _ _ => hready k

theorem not_sinkFair_of_never_ready {k : Nat} (hstall : ∀ j, k ≤ j → (env j).rst = false ∧ (env j).wrReady = false)
    (hst : (r k).st = .hold) : ¬SinkFair env r := by
  intro hfair
  obtain ⟨j, hkj, hready⟩ := hfair k (fun i hki => (hstall i hki).1) hst
  exact absurd hready (by simp [(hstall j hkj).2])

/-- The environment whose SINK stalls for `n` cycles and is ready from then on; nothing is offered or reset. -/
def readyFrom (n k : Nat) : CycleInputs := { quietInputs with wrReady := decide (n ≤ k) }

theorem readyFrom_rst (n k : Nat) : (readyFrom n k).rst = false := rfl

theorem readyFrom_ready {n k : Nat} (h : n ≤ k) : (readyFrom n k).wrReady = true := decide_eq_true h

theorem readyFrom_stalled {n k : Nat} (h : k < n) : (readyFrom n k).wrReady = false :=
  decide_eq_false (Nat.not_le_of_lt h)

theorem readyFrom_sinkFair (n : Nat) : SinkFair (readyFrom n) r :=
  sinkFair_of_infinitely_often_ready fun m => ⟨max m n, le_max_left m n, readyFrom_ready (le_max_right m n)⟩

/-- Settles O57: the line is taken in the first cycle SINK is ready in, being held until then (`hold_while_stalled`);
`readyFrom n` is a fair environment that stalls for `n` cycles. -/
theorem fairSinkTakesEveryOfferedLine : Obligations.FairSinkTakesEveryOfferedLine := by
  refine ⟨fun env r hrun _ _ hfair k h hrst hst hh => ?taken, fun env r => sinkFair_of_infinitely_often_ready,
    fun env r k => not_sinkFair_of_never_ready, fun n s hI hq hst => ?stalls⟩
  case taken =>
    obtain ⟨j, hkj, hready, hstall⟩ := exists_first_ready (hfair k hrst hst)
    have hheld := hrun.hold_while_stalled hst hh hrst hstall
    have hlines := hrun.lines_while_stalled hstall
    obtain ⟨hstj, hhj⟩ := hheld j hkj le_rfl
    obtain ⟨hadd, hport⟩ := cycled_of_write_handshake (s := cycleOf env r j) hstj hhj hready (hrst j hkj)
    have htaken : (r (j + 1)).lines = (r k).lines ++ [encodeSpec h] := by
      rw [hrun.succ_eq j, hadd, ← hlines j hkj le_rfl]; rfl
    refine ⟨j, hkj, hready, fun i hki hij => ?offered, ?written, htaken⟩
    case offered =>
      obtain ⟨hsti, hhi⟩ := hheld i hki hij
      exact ⟨wrValid_iff.mpr ⟨hsti, hrst i hki⟩, hhi, hlines i hki hij⟩
    case written => rw [htaken, ← hport, ← hrun.succ_eq j]; rfl
  case stalls =>
    obtain ⟨h, hh⟩ := Option.isSome_iff_exists.mp (hI.2 hst)
    have hrun := isRun_runFrom (readyFrom n) hI hq
    have hheld := hrun.hold_while_stalled (k := 0) hst hh (fun i _ => readyFrom_rst n i) fun i _ => readyFrom_stalled
    exact ⟨readyFrom n, runFrom (readyFrom n) s, rfl, hrun, readyFrom_sinkFair n, readyFrom_rst n,
      fun k hk => ⟨readyFrom_stalled hk, (hheld (k + 1) (Nat.zero_le _) hk).1⟩⟩

end Sys2Proof.Machine
end

section
/-! SUPPORT. Reset and hazards (70_reset_and_hazards.md): reset cycles (R114), the inputs read in ACCEPT alone (R121), and what stalled cycles keep of RLY, the port and Q (R119, R126). -/

namespace Sys2Proof.Machine

open Sys2Proof.Claims

/-! ### Reset cycles (R114) -/

theorem queueInstr_of_reset {s : State} (hq : s.qside = .closed) (hr : s.inp.rst = true) :
    s.queueInstr = some (.qReset s.push s.pop s.full) := by
  rw [queueInstr_eq_decode hq hr rfl rfl rfl, decode_qsel_reset]

/-- A reset cycle needs no invariant to complete (R115). -/
theorem runCycles_succ_of_reset {s : State} (hr : s.inp.rst = true) (n : Nat) :
    runCycles (n + 1) s = runCycles n s.cycled := by
  rw [runCycles, step_reset hr]; rfl

/-- Settles O43: by induction on the reset cycles; each clears the registers (`cycled_of_reset`) and observes nothing
(`cycled_observation_of_reset`). -/
theorem oneResetCycleSuffices : Obligations.OneResetCycleSuffices := by
  refine ⟨fun s hq hr => ⟨⟨_, _, _, relayInstr_of_reset hr⟩, _, _, _, queueInstr_of_reset hq hr⟩, fun n => ?run⟩
  case run =>
    induction n with
    | zero =>
      intro s hq hreset
      have hr : s.inp.rst = true := (inputAt_zero s) ▸ hreset 0 Nat.one_pos
      obtain ⟨hst', hh', hq'⟩ := cycled_of_reset hq hr
      exact ⟨s.cycled, runCycles_succ_of_reset hr 0, hst', hh', hq', cycled_observation_of_reset hq hr⟩
    | succ n ih =>
      intro s hq hreset
      have hr : s.inp.rst = true := (inputAt_zero s) ▸ hreset 0 (Nat.succ_pos _)
      have hlater : ∀ k, k < n + 1 → (s.cycled.inputAt k).rst = true := fun k hk => by
        rw [inputAt_cycled]; exact hreset (k + 1) (Nat.succ_lt_succ hk)
      obtain ⟨t, hrun, hst', hh', hq', hlines, hdrops⟩ := ih s.cycled (closed_cycled hq) hlater
      obtain ⟨hlines', hdrops'⟩ := cycled_observation_of_reset hq hr
      exact ⟨t, (runCycles_succ_of_reset hr _).trans hrun, hst', hh', hq', hlines.trans hlines', hdrops.trans hdrops'⟩

/-! ### The inputs read in ACCEPT alone (R121) -/

/-- The cycle with another time and other options, its other inputs the same. -/
def State.withSamples (s : State) (now : Word) (tsEn lfEn : Bool) : State :=
  s.withRow { s.inp with nowMs := now, cfgTsEn := tsEn, cfgLfEn := lfEn }

theorem withSamples_of_script {s : State} {c : CycleInputs} {cs : List CycleInputs} (hs : s.script = c :: cs)
    (now : Word) (tsEn lfEn : Bool) :
    s.withSamples now tsEn lfEn = { s with script := { c with nowMs := now, cfgTsEn := tsEn, cfgLfEn := lfEn } :: cs } := by
  simp [State.withSamples, State.withRow, State.inp, hs]

/-- Only ACCEPT writes a sample into `h`. -/
theorem hNext_of_not_accept {s : State} (hno : ¬(s.st = .idle ∧ s.deqValid = true ∧ s.inp.rst = false)) :
    s.hNext = if s.inp.rst then none else s.h := by
  unfold State.hNext
  cases hr : s.inp.rst with
  | true => rfl
  | false =>
    have hno' : ¬(s.st = .idle ∧ s.deqValid = true) := fun ⟨hst, hv⟩ => hno ⟨hst, hv, hr⟩
    exact if_neg hno'

/-- The time and the options reach the next state through `h` alone, so in a cycle that is no ACCEPT they do not reach it. -/
theorem cycled_withSamples {s : State} (hno : ¬(s.st = .idle ∧ s.deqValid = true ∧ s.inp.rst = false))
    (now : Word) (tsEn lfEn : Bool) : (s.withSamples now tsEn lfEn).cycled = s.cycled := by
  have hheld : (s.withSamples now tsEn lfEn).hNext = s.hNext :=
    (hNext_of_not_accept (s := s.withSamples now tsEn lfEn) hno).trans (hNext_of_not_accept hno).symm
  rw [State.cycled, hheld]; rfl

/-- Whether a cycle stops does not depend on the time and the options either (`step_total`). -/
theorem step_withSamples {s : State} (hno : ¬(s.st = .idle ∧ s.deqValid = true ∧ s.inp.rst = false))
    (now : Word) (tsEn lfEn : Bool) : step (s.withSamples now tsEn lfEn) = step s := by
  rw [step_total, step_total, cycled_withSamples hno]; rfl

/-- Settles O44: ACCEPT puts `sampled` into `h`, and no other cycle answers differently for another sample
(`step_withSamples`). -/
theorem optionsAndTimeAreReadOnlyInAccept : Obligations.OptionsAndTimeAreReadOnlyInAccept := by
  refine ⟨fun s hst hv hr hd => ?accept, fun s c cs now tsEn lfEn hs hno => ?other⟩
  case accept =>
    exact ⟨s.cycled, s.sampled, step_eq_cycled s (fun hold _ => by simp [hst] at hold) hd, (relay_of_accept hst hv hr).2,
      rfl, rfl, rfl⟩
  case other =>
    rw [← withSamples_of_script hs]
    exact step_withSamples (fun ⟨hst, hv, hr⟩ => hno _ (relayInstr_of_accept hst hv hr)) now tsEn lfEn

/-! ### The inputs of later cycles -/

theorem inputAt_iterate_cycled (n k : Nat) (s : State) : (State.cycled^[n] s).inputAt k = s.inputAt (n + k) := by
  induction n generalizing s with
  | zero => rw [Nat.zero_add]; rfl
  | succ n ih => rw [Function.iterate_succ_apply, ih, inputAt_cycled, Nat.add_right_comm]

/-- The inputs `n` cycles from now are the ones the run meets there. -/
theorem inp_iterate_cycled (n : Nat) (s : State) : (State.cycled^[n] s).inp = s.inputAt n := by
  rw [← inputAt_zero, inputAt_iterate_cycled, Nat.add_zero]

theorem sinkHolds_now {b : Bool} {n : Nat} {s : State} (h : SinkHolds b (n + 1) s) :
    s.inp.rst = false ∧ s.inp.wrReady = b := by
  rw [← inputAt_zero]; exact h 0 n.succ_pos

theorem sinkHolds_cycled {b : Bool} {n : Nat} {s : State} (h : SinkHolds b (n + 1) s) : SinkHolds b n s.cycled :=
  fun k hk => by rw [inputAt_cycled]; exact h (k + 1) (Nat.succ_lt_succ hk)

/-- The frames offered in `n + 1` cycles are this cycle's and then the ones of the `n` after it. -/
theorem offers_succ (n : Nat) (s : State) : offers (n + 1) s = s.inp.enq.toList ++ offers n s.cycled := by
  simp [offers, List.range_succ_eq_map, List.flatMap_map, inputAt_cycled]

/-! ### RLY and the port while SINK stalls (R119) -/

/-- Through any number of stalled cycles RLY stays in `HOLD` with its record, and no line is written. -/
theorem relay_while_stalled {n : Nat} {s : State} (hst : s.st = .hold) (hstall : SinkHolds false n s) :
    (State.cycled^[n] s).st = .hold ∧ (State.cycled^[n] s).h = s.h ∧ (State.cycled^[n] s).lines = s.lines := by
  induction n generalizing s with
  | zero => exact ⟨hst, rfl, rfl⟩
  | succ n ih =>
    obtain ⟨hr, hw⟩ := sinkHolds_now hstall
    obtain ⟨hst', hh'⟩ := relay_of_stall hst hw hr
    obtain ⟨hstn, hhn, hlines⟩ := ih (s := s.cycled) hst' (sinkHolds_cycled hstall)
    rw [Function.iterate_succ_apply]
    exact ⟨hstn, hhn.trans hh', hlines.trans (cycled_lines_of_no_emit (emittedNow_of_stall hw))⟩

/-- A cycle in `HOLD` without reset offers `Encode` of the held record (R27, R28). -/
theorem cycled_out_of_hold {s : State} {h : Hold} (hst : s.st = .hold) (hh : s.h = some h) (hr : s.inp.rst = false) :
    s.cycled.out.wrValid = true ∧ CarriesLine s.cycled.out (encodeSpec h) := by
  rw [cycled_out, pins_wrValid, encodeSpec_eq_line]
  exact ⟨wrValid_iff.mpr ⟨hst, hr⟩, pins_carriesLine hst hh⟩

/-- The cycle after `k` stalled ones still offers `Encode` of the record held at the start. -/
theorem port_after_stall {k : Nat} {s : State} {h : Hold} (hst : s.st = .hold) (hh : s.h = some h)
    (hstall : SinkHolds false k s) (hr : (s.inputAt k).rst = false) :
    (State.cycled^[k + 1] s).out.wrValid = true ∧ CarriesLine (State.cycled^[k + 1] s).out (encodeSpec h) := by
  obtain ⟨hstk, hhk, -⟩ := relay_while_stalled hst hstall
  rw [Function.iterate_succ_apply']
  exact cycled_out_of_hold hstk (hhk.trans hh) (by rwa [inp_iterate_cycled])

/-- Settles O50: RLY holds its record until the first ready cycle (`relay_while_stalled`), which is then the write
handshake. -/
theorem offeredLineIsStableUntilTaken : Obligations.OfferedLineIsStableUntilTaken := by
  intro n s h hI hq hst hh hstall hr hw
  obtain ⟨hstn, hhn, hlines⟩ := relay_while_stalled hst hstall
  have hrn : (State.cycled^[n] s).inp.rst = false := by rwa [inp_iterate_cycled]
  have hwn : (State.cycled^[n] s).inp.wrReady = true := by rwa [inp_iterate_cycled]
  refine ⟨fun k t hk hrun => ?stable, State.cycled^[n + 1] s, runCycles_eq_iterate hI hq _, ?idle, ?written,
    port_after_stall hst hh hstall hr⟩
  case stable =>
    obtain rfl := Host.Outcome.next.inj ((runCycles_eq_iterate hI hq _).symm.trans hrun)
    exact port_after_stall hst hh (fun i hi => hstall i (hi.trans hk)) (hstall k hk).1
  case idle => rw [Function.iterate_succ_apply']; exact (relay_of_emit hstn hwn hrn).1
  case written =>
    rw [Function.iterate_succ_apply', (cycled_of_write_handshake hstn (hhn.trans hh) hwn hrn).1, hlines]

/-! ### Q while SINK stalls (R126) -/

section
variable {s : State} (hr : s.inp.rst = false) (hlen : s.q.length ≤ 20)
include hr hlen

/-- Q stores of the offer what its free places take, and drops what they leave over. -/
theorem stored_and_dropped_of_running :
    s.storedNow = s.inp.enq.toList.take (20 - s.q.length) ∧ s.droppedNow = s.inp.enq.toList.drop (20 - s.q.length) := by
  obtain hfull | hroom := hlen.eq_or_lt
  · rw [storedNow_of_full hr hfull, droppedNow_of_running hr, if_pos hfull, hfull]
    exact ⟨rfl, rfl⟩
  · have hfits : s.inp.enq.toList.length ≤ 20 - s.q.length :=
      Option.length_toList_le.trans (Nat.le_sub_of_add_le' hroom)
    rw [storedNow_of_running hr, if_neg hroom.ne, droppedNow_of_room hr hroom, List.take_of_length_le hfits,
      List.drop_eq_nil_of_le hfits]
    exact ⟨rfl, rfl⟩

/-- In `HOLD` nothing leaves Q, and the free places take what they can of the offer. -/
theorem cycled_q_of_hold (hq : s.qside = .closed) (hst : s.st = .hold) :
    s.cycled.q = s.q ++ s.inp.enq.toList.take (20 - s.q.length) := by
  rw [cycled_q, qNext_of_not_pop hq hr (pop_of_not_deqReady (deqReady_of_hold hst)),
    (stored_and_dropped_of_running hr hlen).1]

/-- In `HOLD` each offer uses up a free place, as long as there is one. -/
theorem room_after_hold (hq : s.qside = .closed) (hst : s.st = .hold) :
    20 - s.cycled.q.length = 20 - s.q.length - s.inp.enq.toList.length := by
  rw [cycled_q_of_hold hr hlen hq hst, List.length_append, List.length_take]
  omega
end

/-- Through any number of stalled cycles Q appends the first offers, up to its free places, and drops the others. -/
theorem queue_while_stalled {n : Nat} {s : State} (hq : s.qside = .closed) (hlen : s.q.length ≤ 20) (hst : s.st = .hold)
    (hstall : SinkHolds false n s) :
    (State.cycled^[n] s).q = s.q ++ (offers n s).take (20 - s.q.length) ∧
      (State.cycled^[n] s).dropped = s.dropped ++ (offers n s).drop (20 - s.q.length) := by
  induction n generalizing s with
  | zero => simp [offers]
  | succ n ih =>
    obtain ⟨hr, hw⟩ := sinkHolds_now hstall
    have hqueue := cycled_q_of_hold hr hlen hq hst
    have hdrops : s.cycled.dropped = s.dropped ++ s.inp.enq.toList.drop (20 - s.q.length) := by
      rw [cycled_dropped hq, (stored_and_dropped_of_running hr hlen).2]
    obtain ⟨hqueue', hdrops'⟩ := ih (closed_cycled hq) (qNext_length_le hlen) (relay_of_stall hst hw hr).1
      (sinkHolds_cycled hstall)
    rw [room_after_hold hr hlen hq hst] at hqueue' hdrops'
    rw [Function.iterate_succ_apply, offers_succ, List.take_append, List.drop_append, ← List.append_assoc,
      ← List.append_assoc, ← hqueue, ← hdrops]
    exact ⟨hqueue', hdrops'⟩

/-- Settles O49: a run is `cycled` iterated; RLY by `relay_while_stalled`, Q by `queue_while_stalled`. -/
theorem stalledSinkFillsTheQueue : Obligations.StalledSinkFillsTheQueue := by
  intro n s hI hq hst hstall
  obtain ⟨hst', hh', hlines⟩ := relay_while_stalled hst hstall
  exact ⟨State.cycled^[n] s, runCycles_eq_iterate hI hq n, hst', hh', hlines, queue_while_stalled hq hI.1 hst hstall⟩

end Sys2Proof.Machine
end

section
/-! SUPPORT. The invariant over one cycle (R18, R90), the frames it allows (R123), and bounded runs of a closed system: `2k` ready cycles for `k` frames (R89, R125), and a frame's way through an empty Q (R120). -/

namespace Sys2Proof.Machine

open Sys2Proof.Claims

/-! ### The invariant (R18, R90, R123) -/

/-- Settles O36: every next state is `cycled`, which keeps the invariant and the closed Q. -/
theorem everyCycleKeepsTheInvariant : Obligations.EveryCycleKeepsTheInvariant := by
  intro s t hlen hheld hstep
  obtain rfl := step_next_inv hstep
  obtain ⟨hlen', hheld'⟩ := inv_cycled (s := s) ⟨hlen, fun hst => Option.isSome_iff_exists.mpr (hheld hst)⟩
  exact ⟨hlen', fun hst' => Option.isSome_iff_exists.mp (hheld' hst'), closed_cycled⟩

/-- Under the invariant RLY owns one record in `HOLD`, and none in `IDLE`. -/
theorem heldRecord_length {s : State} (hI : s.Inv) : (heldRecord s).length = if s.st = .hold then 1 else 0 := by
  cases hst : s.st with
  | idle => rw [heldRecord_of_idle hst]; rfl
  | hold =>
    obtain ⟨h, hh⟩ := Option.isSome_iff_exists.mp (hI.2 hst)
    rw [heldRecord_of_hold hst, hh]; rfl

theorem inFlight_length {s : State} (hI : s.Inv) :
    s.inFlight.length = s.q.length + if s.st = .hold then 1 else 0 := by
  rw [State.inFlight, List.length_append, owned_eq_heldRecord, List.length_map, heldRecord_length hI, Nat.add_comm]

/-- A record held in front of a full Q. -/
def fullInHold : State :=
  { State.reset with st := .hold, h := some zeroHold, q := List.replicate Config.qdepth zeroFrame }

/-- Settles O48: the count is `inFlight_length`; `fullInHold` reaches the bound. -/
theorem atMostTwentyOneFramesHeld : Obligations.AtMostTwentyOneFramesHeld := by
  refine ⟨fun s hI => ⟨inFlight_length hI, ?bound⟩, fullInHold, by decide, by decide⟩
  case bound =>
    have hlen : s.q.length ≤ 20 := hI.1
    rw [inFlight_length hI]
    split <;> omega

/-! ### A frame every two cycles (R89, R125) -/

/-- With SINK ready, two cycles from `IDLE` take Q's head: ACCEPT samples it, and EMIT writes its line. -/
theorem accept_then_emit {s : State} {f : Frame} {rest : List Frame} (hq : s.qside = .closed) (hst : s.st = .idle)
    (hs : s.q = f :: rest) (hready : SinkHolds true 2 s) :
    s.cycled.cycled.st = .idle ∧ (s.emittedNow ++ s.cycled.emittedNow).map Hold.toFrame = [f] ∧
      rest <+: s.cycled.cycled.q := by
  obtain ⟨hr, -⟩ := sinkHolds_now hready
  obtain ⟨hr', hw'⟩ := sinkHolds_now (sinkHolds_cycled hready)
  have hv : s.deqValid = true := deqValid_of_cons hq hs
  obtain ⟨hst', hh'⟩ : s.cycled.st = .hold ∧ s.cycled.h = some s.sampled := relay_of_accept hst hv hr
  have hrest : rest <+: s.cycled.q := by
    rw [cycled_q, qNext_of_pop hq hr (pop_iff.mpr ⟨hst, hv, hr⟩), hs]
    exact List.prefix_append ..
  refine ⟨(relay_of_emit hst' hw' hr').1, ?emitted,
    hrest.trans (q_isPrefix_qNext hr' (pop_of_not_deqReady (deqReady_of_hold hst')))⟩
  case emitted =>
    rw [emittedNow_of_idle hst, emittedNow_of_emit hst' hw' hr', hh']
    exact congrArg (fun g => [g]) (deqFrame_of_cons hq hs)

/-- Pair by pair of ready cycles, the first `k` frames of Q are emitted, and the others stay in front. -/
theorem queued_frames_emitted {k : Nat} {s : State} (hI : s.Inv) (hq : s.qside = .closed) (hst : s.st = .idle)
    (hk : k ≤ s.q.length) (hready : SinkHolds true (2 * k) s) :
    (State.cycled^[2 * k] s).st = .idle ∧ (collect State.emittedNow (2 * k) s).map Hold.toFrame = s.q.take k ∧
      s.q.drop k <+: (State.cycled^[2 * k] s).q := by
  induction k generalizing s with
  | zero => exact ⟨hst, rfl, List.prefix_rfl⟩
  | succ k ih =>
    obtain ⟨f, rest, hs⟩ := List.exists_cons_of_length_pos (Nat.zero_lt_of_lt hk)
    obtain ⟨hst'', hemitted, later, hlater⟩ :=
      accept_then_emit hq hst hs fun i hi => hready i (by omega)
    have hk' : k ≤ rest.length := by rw [hs] at hk; exact Nat.le_of_succ_le_succ hk
    obtain ⟨hstn, htaken, hleft⟩ := ih (inv_cycled (inv_cycled hI)) (closed_cycled (closed_cycled hq)) hst''
      (by rw [← hlater, List.length_append]; omega) (sinkHolds_cycled (sinkHolds_cycled hready))
    rw [← hlater, List.take_append_of_le_length hk'] at htaken
    rw [← hlater, List.drop_append_of_le_length hk'] at hleft
    refine ⟨hstn, ?taken, ?left⟩
    case taken =>
      rw [Nat.mul_succ, collect_succ _ hI hq, collect_succ _ (inv_cycled hI) (closed_cycled hq), ← List.append_assoc,
        List.map_append, hemitted, htaken, hs]
      rfl
    case left => rw [hs]; exact (List.prefix_append ..).trans hleft

/-- Settles O51: each pair of cycles takes Q's head (`accept_then_emit`), and a run's lines are those of the records it
emits. -/
theorem queuedFramesAreWrittenInTwoCyclesEach : Obligations.QueuedFramesAreWrittenInTwoCyclesEach := by
  intro k s hI hq hst hk hready
  obtain ⟨hst', htaken, hleft⟩ := queued_frames_emitted hI hq hst hk hready
  refine ⟨State.cycled^[2 * k] s, runCycles_eq_iterate hI hq _, hst', htaken, ?lines, hleft⟩
  case lines =>
    rw [← collect_map]
    exact collect_logged (fun s _ _ => cycled_lines s) hI hq fun i hi => (hready i hi).1

/-! ### Push, accept, emit (R120) -/

/-- A frame pushed into an empty Q is Q's only frame after the edge; in `IDLE` no line is written. -/
theorem push_into_empty {s : State} {f : Frame} (hq : s.qside = .closed) (hst : s.st = .idle) (hs : s.q = [])
    (hr : s.inp.rst = false) (he : s.inp.enq = some f) :
    s.cycled.st = .idle ∧ s.cycled.q = [f] ∧ s.cycled.lines = s.lines := by
  have hv : s.deqValid = false := by rw [deqValid_closed hq, hs]; rfl
  have hp : s.pop = false := by rw [State.pop, hv, Bool.false_and]
  refine ⟨(relay_of_wait hst hv hr).1, ?queue, cycled_lines_of_no_emit (emittedNow_of_idle hst)⟩
  case queue => rw [cycled_q, qNext_of_not_pop hq hr hp, storedNow_of_room hr he (by simp [hs]), hs]; rfl

/-- A frame at Q's head is held after the edge, with the time and the options of the cycle it is taken in. -/
theorem accept_head {s : State} {f : Frame} {rest : List Frame} (hq : s.qside = .closed) (hst : s.st = .idle)
    (hs : s.q = f :: rest) (hr : s.inp.rst = false) :
    s.cycled.st = .hold ∧ s.cycled.h = some ⟨f, s.inp.nowMs, s.inp.cfgTsEn, s.inp.cfgLfEn⟩ ∧
      s.cycled.lines = s.lines := by
  obtain ⟨hst', hh'⟩ := relay_of_accept hst (deqValid_of_cons hq hs) hr
  rw [State.sampled, deqFrame_of_cons hq hs] at hh'
  exact ⟨hst', hh', cycled_lines_of_no_emit (emittedNow_of_idle hst)⟩

/-- Settles O52: the three cycles are a push into an empty Q, an ACCEPT and an EMIT. -/
theorem pushAcceptEmitTakeThreeCycles : Obligations.PushAcceptEmitTakeThreeCycles := by
  intro s f hq hst hs hnoReset he hw
  have hI : s.Inv := ⟨by simp [hs], by simp [hst]⟩
  have hrun := runCycles_eq_iterate hI hq
  obtain ⟨hst1, hq1, hlines1⟩ := push_into_empty hq hst hs hnoReset.now he
  obtain ⟨hst2, hh2, hlines2⟩ := accept_head (closed_cycled hq) hst1 hq1 hnoReset.cycled.now
  rw [show s.cycled.inp = s.inputAt 1 from inp_iterate_cycled 1 s] at hh2
  have hr3 : s.cycled.cycled.inp.rst = false := hnoReset.cycled.cycled.now
  have hw3 : s.cycled.cycled.inp.wrReady = true := by
    rw [show s.cycled.cycled.inp = s.inputAt 2 from inp_iterate_cycled 2 s]; exact hw
  refine ⟨⟨_, hrun 1, hst1, hq1, hlines1⟩, ⟨_, hrun 2, hst2, hh2, hlines2.trans hlines1⟩,
    ⟨_, hrun 3, (relay_of_emit hst2 hw3 hr3).1, ?written, (cycled_out_of_hold hst2 hh2 hr3).2⟩⟩
  case written =>
    exact (cycled_of_write_handshake hst2 hh2 hw3 hr3).1.trans (by rw [hlines2, hlines1])

end Sys2Proof.Machine
end

section
/-! SUPPORT. The environment (60_exceptions.md R104): what it owes in open-interface mode, Q as one such environment, the inputs a cycle ignores (R122), and the run each environment has (R100). -/

namespace Sys2Proof.Machine

open Sys2Proof.Claims

/-! ### The environment's duty (R104) -/

theorem dutyBroken_iff {s : State} :
    s.dutyBroken = true ↔ s.inp.rst = false ∧ ∃ f, s.qside = .opened (some f) ∧ s.inp.deqOffer ≠ some f := by
  unfold State.dutyBroken
  rcases s.qside with _ | _ | f <;> simp

theorem step_eq_envProtocol_iff {s : State} {k : Nat} :
    step s = .fault (.envProtocol k) ↔ k = s.cycle ∧ s.dutyBroken = true := by
  rw [step_total]
  split
  case isTrue hd => simp [hd, eq_comm]
  case isFalse hd => split <;> simp [hd]

theorem owedNext_of_unanswered {s : State} {w : Option Frame} (hq : s.qside = .opened w) (hr : s.inp.rst = false)
    (hst : s.st = .hold) : s.owedNext = .opened s.inp.deqOffer := by
  simp [State.owedNext, hq, hr, deqReady_of_hold hst]

theorem owedNext_of_excused {s : State} {w : Option Frame} (hq : s.qside = .opened w)
    (h : s.inp.rst = true ∨ s.st = .idle) : s.owedNext = .opened none := by
  have hexcused : (s.inp.rst || s.deqReady) = true := by
    rw [deqReady_eq_decide]
    rcases h with hr | hst
    · rw [hr]; rfl
    · rw [hst]; cases s.inp.rst <;> rfl
  simp [State.owedNext, hq, hexcused]

/-- Settles O53: of the answers a cycle can give (`step_total`) the fault is that of a broken duty, and every next state
owes `owedNext`. -/
theorem brokenOffersAreFaults : Obligations.BrokenOffersAreFaults := by
  refine ⟨fun s k => ?fault, fun s t w hq hstep => ?owed⟩
  case fault => rw [step_eq_envProtocol_iff, dutyBroken_iff]
  case owed =>
    obtain rfl := step_next_inv hstep
    exact ⟨owedNext_of_unanswered hq, owedNext_of_excused hq⟩

/-! ### Q as an environment (R104) -/

section
variable (s : State) (owed : Option Frame)

@[simp] theorem openView_inp : (s.openView owed).inp = { s.inp with deqOffer := s.q.head? } := rfl
@[simp] theorem openView_qside : (s.openView owed).qside = .opened owed := rfl
@[simp] theorem openView_pins : (s.openView owed).pins = s.pins := rfl
@[simp] theorem openView_emittedNow : (s.openView owed).emittedNow = s.emittedNow := rfl

/-- RLY sees the same offer whether Q makes it or the environment does. -/
theorem openView_offer (hq : s.qside = .closed) :
    (s.openView owed).deqValid = s.deqValid ∧ (s.openView owed).deqFrame = s.deqFrame := by
  constructor
  · rw [State.deqValid, State.deqValid, hq]
    cases hs : s.q <;> simp [hs]
  · rw [State.deqFrame, State.deqFrame, hq]; rfl

theorem openView_registers (hq : s.qside = .closed) :
    (s.openView owed).stNext = s.stNext ∧ (s.openView owed).hNext = s.hNext := by
  obtain ⟨hv, hf⟩ := openView_offer s owed hq
  constructor
  · rw [State.stNext, State.stNext, hv]; rfl
  · rw [State.hNext, State.hNext, hv, State.sampled, State.sampled, hf]; rfl
end

/-- An environment that offers Q's head keeps its duty, if it owes no other frame. -/
theorem openView_keeps_duty {s : State} {owed : Option Frame} (howed : owed = none ∨ owed = s.q.head?) :
    (s.openView owed).dutyBroken = false := by
  rw [Bool.eq_false_iff, ne_eq, dutyBroken_iff]
  rintro ⟨-, f, hside, hother⟩
  obtain rfl : owed = some f := QSide.opened.inj hside
  exact hother (howed.resolve_left nofun).symm

/-- An offer that was not taken is still Q's head after the edge. -/
theorem head?_of_not_taken {s : State} (hr : s.inp.rst = false) (hst : s.st = .hold) :
    s.q.head? = none ∨ s.q.head? = s.cycled.q.head? := by
  obtain ⟨new, hnew⟩ : s.q <+: s.cycled.q := q_isPrefix_qNext hr (pop_of_not_deqReady (deqReady_of_hold hst))
  rw [← hnew]
  cases s.q with
  | nil => exact .inl rfl
  | cons f rest => exact .inr rfl

theorem openView_owedNext (s : State) (owed : Option Frame) :
    ∃ w, (s.openView owed).owedNext = .opened w ∧ (w = none ∨ w = s.cycled.q.head?) := by
  by_cases h : s.inp.rst = true ∨ s.st = .idle
  · exact ⟨none, owedNext_of_excused rfl h, .inl rfl⟩
  · obtain ⟨hr, hst⟩ := not_or.mp h
    have hr : s.inp.rst = false := (Bool.not_eq_true _).mp hr
    have hst : s.st = .hold := by
      cases hs : s.st with
      | idle => exact absurd hs hst
      | hold => rfl
    exact ⟨s.q.head?, owedNext_of_unanswered (s := s.openView owed) rfl hr hst, head?_of_not_taken hr hst⟩

/-- Settles O54: both cycles answer `cycled`; RLY sees the same offer in both (`openView_offer`), and what is not taken
stays Q's head. -/
theorem openInterfaceCoversTheModelledQueue : Obligations.OpenInterfaceCoversTheModelledQueue := by
  intro s owed hI hq howed
  obtain ⟨hst, hh⟩ := openView_registers s owed hq
  exact ⟨s.cycled, (s.openView owed).cycled, step_closed hI hq,
    step_eq_cycled _ (fun hst _ => hI.2 hst) (openView_keeps_duty howed), hst, hh, openView_pins s owed,
    by rw [cycled_lines, cycled_lines, openView_emittedNow]; rfl, openView_owedNext s owed⟩

/-! ### `wr_ready` in `IDLE` (R26, R122) -/

/-- The cycle with another `wr_ready`, its other inputs the same. -/
def State.withWrReady (s : State) (b : Bool) : State := s.withRow { s.inp with wrReady := b }

theorem withWrReady_of_script {s : State} {c : CycleInputs} {cs : List CycleInputs} (hs : s.script = c :: cs) (b : Bool) :
    s.withWrReady b = { s with script := { c with wrReady := b } :: cs } := by
  simp [State.withWrReady, State.withRow, State.inp, hs]

/-- Only EMIT and STALL tell the values of `wr_ready` apart, and neither is a step of `IDLE`. -/
theorem cycled_withWrReady {s : State} (hst : s.st = .idle) (b : Bool) : (s.withWrReady b).cycled = s.cycled := by
  have hemit : (s.withWrReady b).emittedNow = s.emittedNow := by
    rw [emittedNow_of_idle hst, emittedNow_of_idle (s := s.withWrReady b) hst]
  have hrelay : (s.withWrReady b).stNext = s.stNext := by
    rw [State.stNext, State.stNext, hst, show (s.withWrReady b).st = .idle from hst]; rfl
  rw [State.cycled, hemit, hrelay]; rfl

/-- Settles O45: whether an `IDLE` cycle stops does not depend on `wr_ready` (`step_total`), nor does its next state. -/
theorem idleCyclesIgnoreWrReady : Obligations.IdleCyclesIgnoreWrReady := by
  intro s c cs b hst hs
  rw [← withWrReady_of_script hs, step_total, step_total, cycled_withWrReady hst]; rfl

/-! ### One run for each environment (R100, R103) -/

theorem withRow_inputAt_succ (s : State) (c : CycleInputs) (k : Nat) :
    (s.withRow c).inputAt (k + 1) = s.inputAt (k + 1) := by
  simp [State.inputAt]

variable {env : Nat → CycleInputs} {r : Nat → State}

/-- Two runs under one environment from one state are the same, cycle by cycle. -/
theorem IsRun.unique {r' : Nat → State} (hrun : IsRun env r) (hrun' : IsRun env r') (hstart : r 0 = r' 0) : r = r' := by
  funext k
  induction k with
  | zero => exact hstart
  | succ k ih => rw [hrun.succ_eq, hrun'.succ_eq, cycleOf, cycleOf, ih]

/-- The environment replaces the current row alone: the rows after it come up as the first state holds them. -/
theorem IsRun.inputAt (hrun : IsRun env r) (k j : Nat) : (r k).inputAt j = (r 0).inputAt (k + j) := by
  induction k generalizing j with
  | zero => rw [Nat.zero_add]
  | succ k ih => rw [hrun.succ_eq, inputAt_cycled, cycleOf, withRow_inputAt_succ, ih, Nat.succ_add_eq_add_succ]

/-- Under the inputs its first state holds, each state of a run steps to the next one by itself. -/
theorem IsRun.step_of_own_inputs (hrun : IsRun env r) (henv : ∀ k, env k = (r 0).inputAt k) (k : Nat) :
    step (r k) = .next (r (k + 1)) := by
  have hrow : env k = (r k).inp := by rw [← inputAt_zero, hrun.inputAt]; exact henv k
  rw [← step_withRow_inp, ← hrow]
  exact hrun k

theorem IsRun.runCycles_of_own_inputs (hrun : IsRun env r) (henv : ∀ k, env k = (r 0).inputAt k) (n k : Nat) :
    runCycles n (r k) = .next (r (k + n)) := by
  induction n generalizing k with
  | zero => rfl
  | succ n ih =>
    rw [runCycles, hrun.step_of_own_inputs henv, andThen_next, ih, Nat.succ_add_eq_add_succ]

/-- Settles O56: the run is `runFrom`, each next state is `cycled` of the one before, and the script's rows are the
environment's. -/
theorem everyEnvironmentHasOneRun : Obligations.EveryEnvironmentHasOneRun := by
  refine ⟨fun env s hI hq => ⟨runFrom env s, rfl, isRun_runFrom env hI hq, runFrom_inv_closed env hI hq⟩,
    fun env r r' => IsRun.unique, fun env r hrun henv n => ?finite⟩
  case finite => rw [hrun.runCycles_of_own_inputs henv, Nat.zero_add]

end Sys2Proof.Machine
end

section
/-! SUPPORT. Instructions and selectors: decoding against encoding (30_encoding.md R53, R63), which instructions can stop (R18), how a step composes the three it runs (R80), and the states built to present a selector (R59). -/

namespace Sys2Proof

/-! ### Decode and encode -/

/-- Settles O1: each word is decoded as it stands. -/
theorem selectorWordsDecode : Obligations.SelectorWordsDecode := by
  unfold Obligations.SelectorWordsDecode
  decide

theorem encode_decode (w : Selector) : encode (decode w) = w := by
  cases w with
  | sel v => revert v; decide
  | rsel v => revert v; decide
  | qsel v => revert v; decide

/-- The open bits of a row come back as the operands they were (R63). -/
theorem decode_encode (i : Instr) : decode (encode i) = i := by
  cases i with
  | encStdData | encStdRemote | encExtData | encExtRemote | qPush | qDrop | qPushPop | qDropPop => rfl
  | rlyReset st deqValid wrReady => revert st deqValid wrReady; decide
  | rlyWait wrReady | rlyAccept wrReady => revert wrReady; decide
  | rlyStall deqValid | rlyEmit deqValid => revert deqValid; decide
  | qReset push pop full => exact Machine.decode_qsel_reset push pop full
  | qHold full => exact Machine.decode_qsel_hold full
  | qPop full => exact Machine.decode_qsel_pop full

/-- Settles O2: each direction by the rows of the tables. -/
theorem decodeAndEncodeAreInverse : Obligations.DecodeAndEncodeAreInverse :=
  ⟨fun i _ => decode_encode i, encode_decode⟩

namespace Machine

/-! ### The instructions that read `h` (R18) -/

/-- The four ENC rows, which the model lets read `h` (log 16). -/
abbrev ReadsHold (i : Instr) : Prop := i = .encStdData ∨ i = .encStdRemote ∨ i = .encExtData ∨ i = .encExtRemote

/-- The ENC rows drive the port from a read of `h`; every other instruction answers a next state. -/
theorem exec_drives_or_completes (i : Instr) :
    (ReadsHold i ∧ ∃ f : Hold → Line, ∀ s, exec i s = driveFrom f s) ∨ (¬ ReadsHold i ∧ ∀ s, ∃ t, exec i s = .next t) := by
  cases i with
  | encStdData | encStdRemote | encExtData | encExtRemote => exact .inl ⟨by simp [ReadsHold], _, fun s => rfl⟩
  | rlyReset | rlyWait | rlyAccept | rlyStall | rlyEmit => exact .inr ⟨by simp [ReadsHold], fun s => ⟨_, rfl⟩⟩
  | qReset | qHold | qPop | qPush | qDrop | qPushPop | qDropPop => exact .inr ⟨by simp [ReadsHold], fun s => ⟨_, rfl⟩⟩

/-- Settles O39: an ENC row stops exactly when the read of `h` gives nothing (`readHeld_eq_none`). -/
theorem onlyUnwrittenHoldStopsAnInstruction : Obligations.OnlyUnwrittenHoldStopsAnInstruction := by
  intro i s
  obtain ⟨henc, f, hexec⟩ | ⟨hother, hnext⟩ := exec_drives_or_completes i
  · refine ⟨fun ⟨_, hunread⟩ => ?stops, fun hread => ?reads⟩
    case stops => rw [hexec, driveFrom_unread (readHeld_eq_none.mpr hunread)]
    case reads =>
      have hsome : s.readHeld ≠ none := fun hnone => hread ⟨henc, readHeld_eq_none.mp hnone⟩
      obtain ⟨h, hh⟩ := Option.ne_none_iff_exists'.mp hsome
      exact ⟨_, (hexec s).trans (driveFrom_read hh)⟩
  · exact ⟨fun ⟨henc, _⟩ => absurd henc hother, fun _ => hnext s⟩

/-! ### The composition of a step (R80) -/

/-- A closed cycle starts by setting the pins alone. -/
theorem beginCycle_closed {s : State} (hq : s.qside = .closed) : s.beginCycle = .next { s with out := s.idlePins } := by
  have howed : s.owedNext = s.qside := by rw [State.owedNext, hq]
  rw [State.beginCycle, if_neg (by simp [dutyBroken_closed hq]), howed]

/-- A closed cycle with RLY's and Q's selectors decoded; ENC's instruction depends on `st`. -/
theorem step_eq_composition {s : State} (hq : s.qside = .closed) :
    step s = andThen (execOpt s.encInstr { s with out := s.idlePins }) fun b =>
      andThen (exec s.relayInstr b) fun c =>
      andThen (exec (decode (.qsel s.qsel)) c) fun d =>
      .next d.endCycle := by
  rw [step, beginCycle_closed hq, queueInstr_closed hq]; rfl

/-- Settles O34: the composition with ENC's instruction named: none in `IDLE`, the record's shape in `HOLD`. -/
theorem stepRunsTheDecodedInstructions : Obligations.StepRunsTheDecodedInstructions := by
  refine fun s hq => ⟨fun hst => ?idle, fun h hst hh => ?held, fun hst hh => ⟨s.unknownRecord.sel, ?unwritten⟩⟩
  case idle =>
    have henc : s.encInstr = none := by rw [State.encInstr, hst]
    rw [step_eq_composition hq, henc]; rfl
  case held =>
    have henc : s.encInstr = some (decode (.sel h.sel)) := by rw [State.encInstr, hst, hh]; rfl
    rw [step_eq_composition hq, henc]; rfl
  case unwritten =>
    have henc : s.encInstr = some (decode (.sel s.unknownRecord.sel)) := by rw [State.encInstr, hst, hh]; rfl
    rw [step_eq_composition hq, henc]; rfl

/-! ### The states that present a selector (log 15) -/

theorem someFrames_length (q : List Frame) : (someFrames q).length = max 1 q.length := by
  cases q <;> simp [someFrames]

/-- The built state is closed, whatever it was built from. -/
theorem presenting_closed (s : State) (w : Selector) : (s.presenting w).qside = .closed := by
  cases w <;> rfl

theorem presenting_q_length (s : State) (hlen : s.q.length ≤ 20) (w : Selector) : (s.presenting w).q.length ≤ 20 := by
  cases w with
  | sel v => exact hlen
  | rsel v =>
    simp only [State.presenting]
    split
    · rw [someFrames_length]; omega
    · exact Nat.zero_le _
  | qsel v =>
    simp only [State.presenting]
    split
    · rw [List.length_replicate]; exact Nat.le_refl _
    · split <;> rw [List.length_take] <;> omega

theorem presenting_held (s : State) (w : Selector) : (s.presenting w).st = .hold → (s.presenting w).h.isSome = true := by
  cases w with
  | sel v => exact fun _ => rfl
  | rsel v => simp only [State.presenting]; cases v[2] <;> simp
  | qsel v => simp only [State.presenting]; cases v[1] <;> simp

theorem step_presenting (s : State) (hlen : s.q.length ≤ 20) (w : Selector) : ∃ t, step (s.presenting w) = .next t :=
  ⟨_, step_closed ⟨presenting_q_length s hlen w, presenting_held s w⟩ (presenting_closed s w)⟩

theorem encInstr_presenting (s : State) (v : BitVec 2) :
    (s.presenting (.sel v)).encInstr = some (decode (.sel v)) :=
  congrArg (fun v => some (decode (.sel v))) (bits2_eta v)

theorem presenting_rsel_q_pos_iff (s : State) (v : BitVec 4) :
    0 < (s.presenting (.rsel v)).q.length ↔ v[1] = true := by
  simp only [State.presenting]
  split <;> simp [someFrames_length, *]

theorem rsel_presenting (s : State) (v : BitVec 4) : (s.presenting (.rsel v)).rsel = v := by
  have hst : (s.presenting (.rsel v)).st.bit = v[2] := by
    simp only [State.presenting]
    cases v[2] <;> rfl
  have hv : (s.presenting (.rsel v)).deqValid = v[1] := by
    rw [deqValid_closed (presenting_closed ..), Bool.eq_iff_iff, decide_eq_true_iff, presenting_rsel_q_pos_iff]
  rw [State.rsel, hst, hv]
  exact bits4_eta v

theorem presenting_qsel_idle_iff (s : State) (v : BitVec 4) : (s.presenting (.qsel v)).st = .idle ↔ v[1] = true := by
  simp only [State.presenting]
  cases v[1] <;> simp

theorem presenting_qsel_q_pos (s : State) {v : BitVec 4} (hpop : v[1] = true) :
    0 < (s.presenting (.qsel v)).q.length := by
  simp only [State.presenting, hpop, if_true]
  split <;> simp [someFrames_length, Config.qdepth]

theorem presenting_qsel_q_full_iff (s : State) (v : BitVec 4) :
    (s.presenting (.qsel v)).q.length = 20 ↔ v[0] = true := by
  simp only [State.presenting]
  split
  next hfull => simp [hfull, Config.qdepth]
  next hroom =>
    refine iff_of_false ?_ hroom
    split <;> rw [List.length_take] <;> omega

/-- `pop = 1` needs `rst = 0` (R93), so a vector with both set cannot be presented. -/
theorem qsel_presenting (s : State) (v : BitVec 4) (hv : ¬ (v[3] = true ∧ v[1] = true)) :
    (s.presenting (.qsel v)).qsel = v := by
  have hpush : (s.presenting (.qsel v)).push = v[2] := by
    change Option.isSome (if v[2] then some _ else none) = v[2]
    cases v[2] <;> rfl
  have hpop : (s.presenting (.qsel v)).pop = v[1] := by
    have hrst : v[1] = true → (s.presenting (.qsel v)).inp.rst = false := fun h1 =>
      (Bool.not_eq_true _).mp fun h3 => hv ⟨h3, h1⟩
    rw [pop_eq_decide_closed (presenting_closed ..), Bool.eq_iff_iff, decide_eq_true_iff, presenting_qsel_idle_iff]
    exact ⟨fun ⟨_, h1, _⟩ => h1, fun h1 => ⟨presenting_qsel_q_pos s h1, h1, hrst h1⟩⟩
  have hfull : (s.presenting (.qsel v)).full = v[0] := by
    rw [Bool.eq_iff_iff, full_iff, presenting_qsel_q_full_iff]
  rw [State.qsel, hpush, hpop, hfull]
  exact bits4_eta v

/-- Settles O55: the built state is closed and meets the invariant, so its cycle completes, and its selector is the
vector. -/
theorem presentedSelectorsAreRun : Obligations.PresentedSelectorsAreRun := by
  refine fun s hlen => ⟨fun v => ⟨encInstr_presenting s v, step_presenting s hlen _⟩,
    fun v => ⟨?relay, step_presenting s hlen _⟩, fun v hv => ⟨?queue, step_presenting s hlen _⟩⟩
  case relay => rw [State.relayInstr, rsel_presenting]
  case queue => rw [queueInstr_closed (presenting_closed ..), qsel_presenting s v hv]

end Machine
end Sys2Proof
end

section
/-! SUPPORT. The bytes of a line by position (30_encoding.md R55), the lines of well-formed frames (00_scope.md R11) and of the demo generator's (60_exceptions.md R112), and the timestamps of consecutive milliseconds (40_encoder.md R79). -/

namespace Sys2Proof.Machine

open Sys2Proof.Claims

/-! ### The digits of a line (R55, R60) -/

theorem hexDigit_hexd (n : BitVec 4) : HexDigit (hexd n) := by revert n; decide

theorem hexDigit_of_mem_hexN {v k : Nat} {b : Byte} (hb : b ∈ hexN v k) : HexDigit b := by
  induction k with
  | zero => cases hb
  | succ k ih =>
    obtain rfl | htail := List.mem_cons.mp hb
    · exact hexDigit_hexd _
    · exact ih htail

/-- Between TYPE and CR a line holds digits alone: ID, DLC, DATA and TS are hexadecimal fields. -/
theorem hexDigit_of_mem_body_tail {h : Hold} {b : Byte} (hb : b ∈ h.body.tail) : HexDigit b := by
  have hfields : h.body.tail = (if h.ext then extIdField h.id else stdIdField h.id) ++ dlcField h.dlc ++
    dataField h.data (dataCount h.rtr h.dlc) ++ tsField h.tsEn h.ts := rfl
  simp only [hfields, List.mem_append] at hb
  obtain ((hid | hdlc) | hdata) | hts := hb
  · split at hid <;> exact hexDigit_of_mem_hexN hid
  · exact hexDigit_of_mem_hexN hdlc
  · obtain ⟨_, _, hdigit⟩ := List.mem_flatMap.mp hdata
    exact hexDigit_of_mem_hexN hdigit
  · unfold tsField at hts
    split at hts
    · exact hexDigit_of_mem_hexN hts
    · cases hts

theorem line_hexDigit {h : Hold} {i : Nat} {b : Byte} (hb : h.line[i]? = some b) (h1 : 1 ≤ i)
    (hi : i < h.body.length) : HexDigit b := by
  obtain ⟨j, rfl⟩ := Nat.exists_eq_add_of_le' h1
  rw [line_eq_body, List.append_assoc, List.getElem?_append_left hi, ← List.getElem?_tail] at hb
  exact hexDigit_of_mem_body_tail (List.mem_of_getElem? hb)

/-! ### The leading digits (R55) -/

/-- The byte at the start of a field read by its position. -/
theorem getElem?_of_take_drop {B L : Line} {i n : Nat} (h : (L.drop i).take n = B) (hn : 0 < n) :
    L[i]? = B[0]? := by
  rw [← h, List.getElem?_take_of_lt hn, List.getElem?_drop, Nat.add_zero]

/-- The first of the `k + 1` digits of a number below `m * 16 ^ k` is the digit of a value below `m`. -/
theorem hexN_head {v k m : Nat} (hv : v < m * 16 ^ k) :
    ∃ n : BitVec 4, (hexN v (k + 1))[0]? = some (hexd n) ∧ n.toNat < m := by
  have hdigit : v / 16 ^ k < m := Nat.div_lt_of_lt_mul (by rwa [Nat.mul_comm])
  refine ⟨nib k v, rfl, ?_⟩
  rw [nib_eq, BitVec.toNat_ofNat]
  exact ((Nat.mod_le _ _).trans (Nat.mod_le _ _)).trans_lt hdigit

theorem hexd_ne_F : ∀ n : BitVec 4, n.toNat < 15 → hexd n ≠ 0x46 := by decide

/-- The first digit of a standard identifier holds its upper three bits. -/
theorem stdId_head {h : Hold} (hext : h.ext = false) {b : Byte} (hb : h.line[1]? = some b) :
    0x30 ≤ b.toNat ∧ b.toNat ≤ 0x37 := by
  obtain ⟨-, hid, -⟩ := lineIsSevenFieldsInOrder h
  rw [hext] at hid
  have hbound : (h.id &&& Config.stdIdMask).toNat < 8 * 16 ^ 2 := by
    rw [toNat_and_stdIdMask]
    exact Nat.mod_lt _ (by decide)
  obtain ⟨n, hn, hlt⟩ := hexN_head hbound
  rw [getElem?_of_take_drop hid (by decide)] at hb
  obtain rfl : hexd n = b := Option.some.inj (hn.symm.trans hb)
  rw [hexd_toNat]
  split <;> omega

/-- The first digit of a time below 60000 (`EA60`) is no `F`. -/
theorem ts_head {h : Hold} (hts : h.tsEn = true) {b : Byte}
    (hb : h.line[(if h.ext then 8 else 3) + 2 + 2 * dataBytes h]? = some b) : b ≠ 0x46 := by
  obtain ⟨-, -, -, -, hfield, -⟩ := lineIsSevenFieldsInOrder h
  simp only [hts, if_true] at hfield
  obtain ⟨n, hn, hlt⟩ := hexN_head (v := h.ts.toNat % 60000) (k := 3) (m := 15) (by omega)
  rw [getElem?_of_take_drop hfield (by decide)] at hb
  obtain rfl : hexd n = b := Option.some.inj (hn.symm.trans hb)
  exact hexd_ne_F n hlt

/-- Settles O14: TYPE by its four values, the digits by the body of the line, CR and LF by their positions. -/
theorem lineBytesStayInTheirAlphabet : Obligations.LineBytesStayInTheirAlphabet := by
  intro h i b hb W n t
  have hbody : h.body.length = W + 2 + 2 * n + t := by
    rw [body_length]; omega
  obtain ⟨-, -, -, -, -, hcr, hlf, -⟩ := lineIsSevenFieldsInOrder h
  refine ⟨?type, ?stdId, ?extId, ?digit, ?ts, ?cr, ?lf, ?last⟩
  case type =>
    rintro rfl
    rw [line_eq_cons] at hb
    obtain rfl : typeByte h.ext h.rtr = b := Option.some.inj hb
    cases h.ext <;> cases h.rtr <;> decide
  case stdId => rintro rfl hext; exact stdId_head hext hb
  case extId =>
    rintro rfl hext
    simpa [hb] using line_getElem?_one_of_ext hext
  case digit => exact fun h1 hi => line_hexDigit hb h1 (hbody ▸ hi)
  case ts => rintro hts rfl; exact ts_head hts hb
  case cr =>
    rintro rfl
    rw [getElem?_of_take_drop hcr (by decide)] at hb
    exact (Option.some.inj hb).symm
  case lf =>
    intro hi
    rw [hi, ← Nat.add_zero (W + 3 + 2 * n + t), ← List.getElem?_drop, hlf] at hb
    split at hb
    · exact (Option.some.inj hb).symm
    · cases hb
  case last =>
    have hi : i < h.line.length := (List.getElem?_eq_some_iff.mp hb).1
    have hlf1 : (if h.lfEn then 1 else 0) ≤ 1 := by split <;> omega
    rw [line_length, ← dataBytes_eq_dataCount] at hi
    omega

/-! ### Well-formed frames (R11, R112) -/

theorem wf_iff {f : Frame} :
    f.wf = true ↔ f.dlc.toNat ≤ 8 ∧ (f.ext = true → f.id.toNat < 2 ^ 29) ∧ (f.ext = false → f.id.toNat < 2 ^ 11) := by
  unfold Frame.wf
  cases f.ext <;> simp

/-- No mask changes a well-formed frame. -/
theorem wf_masks {h : Hold} (hwf : h.toFrame.wf = true) :
    (if h.ext then (h.id &&& 0x1FFFFFFF).toNat else (h.id &&& 0x7FF).toNat) = h.id.toNat ∧
      (h.dlc &&& 0xF).toNat = h.dlc.toNat ∧ rendered h.dlc = h.dlc.toNat := by
  obtain ⟨hdlc, hextId, hstdId⟩ := wf_iff.mp hwf
  refine ⟨?id, ?dlc, by rw [rendered_eq]; omega⟩
  case id =>
    split
    next hext => exact (toNat_and_extIdMask h.id).trans (Nat.mod_eq_of_lt (hextId hext))
    next hext =>
      exact (toNat_and_stdIdMask h.id).trans (Nat.mod_eq_of_lt (hstdId ((Bool.not_eq_true _).mp hext)))
  case dlc => exact (dlcNibble_eq_mod h.dlc).trans (Nat.mod_eq_of_lt (by omega))

/-- Settles O17: the reader gives the masked fields (O16), and the masks change nothing. -/
theorem wellFormedFramesAreRenderedExactly : Obligations.WellFormedFramesAreRenderedExactly := by
  intro h hwf
  obtain ⟨hid, hdlc, hn⟩ := wf_masks hwf
  have hdata : h.data.toList.take (dataBytes h) = if h.rtr then [] else h.data.toList.take h.dlc.toNat := by
    rw [dataBytes, hn]
    cases h.rtr <;> rfl
  rw [readingALineRecoversItsFields h, hid, hdlc, hdata]

theorem isDemo_iff {f : Frame} :
    f.isDemo = true ↔ f.id.toNat ≤ 0x7FF ∧ f.dlc.toNat ≤ 8 ∧ f.ext = false ∧ f.rtr = false := by
  simp [Frame.isDemo, and_assoc]

/-- Settles O21: a demo frame lies in the standard identifier space, and its shape is `00`. -/
theorem demoFramesAreWellFormed : Obligations.DemoFramesAreWellFormed := by
  intro h hdemo
  obtain ⟨hid, hdlc, hext, hrtr⟩ := isDemo_iff.mp hdemo
  have hwf : h.toFrame.wf = true := wf_iff.mpr ⟨hdlc, by simp [hext], fun _ => by omega⟩
  refine ⟨hwf, ?shape, ?line, (wf_masks hwf).2.2⟩
  case shape => rw [Hold.sel, hext, hrtr]; rfl
  case line =>
    have hself : h.withShape false false = h := by
      have hself := withShape_self h
      rwa [hext, hrtr] at hself
    rw [stdDataLine_eq, hself]

/-! ### Timestamps (R79) -/

/-- The TS digits spell the time modulo 60000. -/
theorem readHex_tsField (ts : Word) : (readHex 4 (tsField true ts)).map Prod.fst = some (ts.toNat % 60000) := by
  have hlt : ts.toNat % 60000 < 16 ^ 4 := by omega
  have hread := readHex_hexN hlt []
  rw [List.append_nil] at hread
  exact congrArg (Option.map Prod.fst) hread

/-- Settles O20: below the largest value the increment does not wrap, so it counts modulo 60000; the four values named are
evaluated. -/
theorem timestampSequenceJumpsAtTheWrap : Obligations.TimestampSequenceJumpsAtTheWrap := by
  refine ⟨fun ts hts => ⟨ts.toNat % 60000, readHex_tsField ts, by omega, ?next⟩, by decide, by decide, by decide,
    by decide, fun ts => rfl⟩
  case next =>
    have hsucc : (ts + 1).toNat = ts.toNat + 1 := by bv_omega
    rw [readHex_tsField, hsucc, Nat.mod_add_mod]

end Sys2Proof.Machine
end
